-- ==== Sys2Proof/Word.lean ====
section
/-! DEFINITION. The two word widths of the VFD (00_scope.md R6, R7): bytes and 16-bit fields. -/

namespace Sys2Proof

/-- `u8` (R7): a raw byte, a lead byte, a payload byte. Bit 7 is the most significant (R31). -/
abbrev Byte := BitVec 8

/-- `u16` (R7): the big-endian fields of `SETLED` and `HRSETLED`. -/
abbrev Word16 := BitVec 16

end Sys2Proof
end

