-- ==== Sys2Proof/Config.lean ====
section
/-! DEFINITION. The configuration of a decoding session, `cfg = (MODE, ML)` (00_scope.md R6, 10_state.md R16 to
R18). Both are open parameters (92_eei_decisions.md D2, D17): the state carries them as fields that no step writes
(R17), so every statement over all states is a statement over all configurations. The spec leaves no value free, so
there is no opaque constant here. -/

namespace Sys2Proof

/-- `MODE` (R16): which of the two framing rule sets is active for the session. -/
inductive Mode where
  | delim   -- delimiter-terminated mode
  | length  -- length-aware mode
deriving DecidableEq, Repr

/-- The addressed memory of the VFD, the `ML` table (R18, 20_memory.md R34): (address, length) pairs with strictly
rising addresses below 256. An address not listed has no entry. The lengths are natural numbers without a bound
(D17), which is why an entry is not a byte cell. -/
abbrev Memory := List (Nat × Nat)

end Sys2Proof
end

