-- ==== Sys2Proof/Machine/Types.lean ====
section
/-! DEFINITION. The data types of the machine and of its interfaces (10_state.md R11, R19 to R21), and the formats in
which an instruction can be read (30_encoding.md R61). -/

namespace Sys2Proof

/-- `sync`, the sequencing state (R11). The type has the three values the machine enters; the fourth pattern of two
bits does not exist here (93 U1). -/
inductive Sync where
  | seekingStart
  | inFrame
  | afterEscape
deriving DecidableEq, Repr

/-- An input event (R20): one byte, or the end of the stream. -/
inductive InputEvent where
  | byte (b : Byte)
  | eos
deriving DecidableEq, Repr

/-- A decoded protocol unit (R19). -/
structure Frame where
  address : Byte
  payload : List Byte
deriving DecidableEq, Repr

/-- The closed set of decoded commands (R19). The strobe records its lead byte (D16). -/
inductive Command where
  | strobe (lead : Byte)
  | setLed (ledId : Word16) (r g b a : Byte)
  | authenticate (token : List Byte)
  | highResSetLed (ledId r g b a : Word16)
  | setChannels (address : Byte) (channelValues : List Byte)
deriving DecidableEq, Repr

/-- The error codes the VFD reports (R19, R160). -/
inductive ErrorCode where
  | pvEscape
  | pvLength
  | unexpectedSync
  | unknownAddress
deriving DecidableEq, Repr

/-- The four error classes of the document (R160, 60_exceptions.md preamble). -/
inductive ErrorClass where
  | protocolViolation
  | unexpectedSyncError
  | unknownAddressError
  | configurationError
deriving DecidableEq, Repr

/-- The output of a step (R21): nothing, a command, or an error report with the lead byte if one was captured. -/
inductive Output where
  | none
  | cmd (c : Command)
  | err (code : ErrorCode) (lead : Option Byte)
deriving DecidableEq, Repr

/-- The formats of opcode_table.json (R61): a symbol class (SYMCLASS), an escape sequence (ESCSEQ), a transition row
(SYM or EVENT) read in a mode, a sequencing state and with the buffer empty or not, and a frame on the wire (FRAME). -/
inductive Format where
  | symbol
  | escapeSequence
  | transition (mode : Mode) (sync : Sync) (bufEmpty : Bool)
  | frame
deriving DecidableEq, Repr

/-- Why `decode` reads no instruction from a list of input events in a format. -/
inductive DecodeError where
  /-- There is no event, or too few of them. -/
  | truncated
  /-- There are events after the instruction. -/
  | trailing
  /-- The end of the stream stands where a byte is needed. -/
  | endOfStream
  /-- An escape sequence does not begin with `ESCAPE`. -/
  | notEscape
  /-- A frame does not begin with `START`. -/
  | notStart
  /-- A raw `START` stands inside a frame. -/
  | rawStart
  /-- `ESCAPE` inside a frame is followed by a byte that is no escape code. -/
  | badEscape
  /-- A frame has no lead byte. -/
  | noLead
deriving DecidableEq, Repr

end Sys2Proof
end

