-- ==== Sys2Proof/Machine/Wire.lean ====
section
/-! DEFINITION. The wire-format constants (00_scope.md R5), each named once, as 93_implementation_defined.md U9
asks. -/

namespace Sys2Proof.Wire

/-- `START`, the frame delimiter (R5, R50). -/
def start : Byte := 0x55#8

/-- `ESCAPE`, the escape introducer (R5, R50). -/
def escape : Byte := 0x54#8

/-- The escape code for the literal `0x54` (R5). -/
def code0 : Byte := 0x00#8

/-- The escape code for the literal `0x55` (R5). -/
def code1 : Byte := 0x01#8

/-- Lead byte of the high-level strobe, dispatch row 0 (R54). -/
def strobeHigh : Byte := 0xFF#8

/-- Lead byte of `SetLed`, dispatch row 1 (R54). -/
def opSetLed : Byte := 0x01#8

/-- Lead byte of `Authenticate`, dispatch row 2 (R54). -/
def opAuth : Byte := 0x02#8

/-- Lead byte of `HighResSetLed`, dispatch row 3 (R54). -/
def opHighRes : Byte := 0x03#8

/-- `STROBE_ADDR`, lead byte of the bus-level strobe, dispatch row 4 (R5, R54). -/
def strobeBus : Byte := 0xFE#8

/-- Payload length of a strobe (R54, R58). -/
def strobeLength : Nat := 0

/-- Payload length of `SETLED` (R54, R55). -/
def setLedLength : Nat := 6

/-- Payload length of `AUTH`, the token length (R54, R56). -/
def tokenLength : Nat := 16

/-- Payload length of `HRSETLED` (R54, R57). -/
def highResLength : Nat := 10

/-- The payload length of a lead byte that one of the five fixed dispatch rows claims (R35, R54); `none` for the
251 module addresses of row 5. -/
def fixedLength (a : Byte) : Option Nat :=
  if a = strobeHigh then some strobeLength
  else if a = opSetLed then some setLedLength
  else if a = opAuth then some tokenLength
  else if a = opHighRes then some highResLength
  else if a = strobeBus then some strobeLength
  else none

/-- A module address: a lead byte that selects row 5 (R61). -/
def isModule (a : Byte) : Bool := (fixedLength a).isNone

/-- A valid escape code (R50, R52). -/
def isCode (c : Byte) : Bool := c == code0 || c == code1

/-- A byte the encoder escapes (R51). -/
def isReserved (b : Byte) : Bool := b == escape || b == start

end Sys2Proof.Wire
end

