-- ==== Sys2Proof/Syntax.lean ====
section
/-! DEFINITION. The instruction syntax: one constructor for each of the 36 rows of spec/opcode_table.json, in the
table's order (30_encoding.md R61). -/

namespace Sys2Proof

/-- The instructions. Operands: `b` is the raw byte a row with a byte class matched, `c` the code byte after an
`ESCAPE`, `payload` the unescaped bytes after the lead byte of a frame, as received. -/
inductive Instr where
  -- SYMCLASS: what one raw byte is (R50)
  | start
  | escape
  | code0
  | code1
  | data (b : Byte)
  -- ESCSEQ: two raw bytes (R52, R53, R161)
  | esc54
  | esc55
  | escBad (c : Byte)
  -- SYM and EVENT, mode DELIM (R71 to R79, R81)
  | dSeekStart
  | dSeekOther (b : Byte)
  | dInEsc
  | dInStartFrame
  | dInStartEmpty
  | dInData (b : Byte)
  | dAeCode0
  | dAeCode1
  | dAeBad (b : Byte)
  | dEos
  -- SYM and EVENT, mode LENGTH (R93 to R97, R99 to R104, R106)
  | lSeekStart
  | lSeekOther (b : Byte)
  | lLeadStart
  | lLeadEsc
  | lLeadData (b : Byte)
  | lRunStart
  | lRunEsc
  | lRunData (b : Byte)
  | lLeadescOk (c : Byte)
  | lLeadescBad (b : Byte)
  | lRunesc (b : Byte)
  | lEos
  -- FRAME: the six dispatch rows (R121 to R126)
  | strobeH (payload : List Byte)
  | setled (payload : List Byte)
  | auth (payload : List Byte)
  | hrsetled (payload : List Byte)
  | strobeB (payload : List Byte)
  | setch (address : Byte) (payload : List Byte)
deriving DecidableEq, Repr

end Sys2Proof
end

