-- ==== Sys2Proof/WellFormed.lean ====
section
/-! DEFINITION. Which instruction terms the encoding admits: the byte class of every row (30_encoding.md R50, R61) and
the payload length of the five fixed frame forms (R54). -/

namespace Sys2Proof

/-- The operand is one the row of the table matches. The number of channel values of `SETCH` is a matter of the
configuration, not of the encoding, and is checked by its meaning (R126). -/
def wellFormed : Instr → Bool
  | .start | .escape | .code0 | .code1 => true
  | .data b => !Wire.isCode b && !Wire.isReserved b
  | .esc54 | .esc55 => true
  | .escBad c => !Wire.isCode c
  | .dSeekStart | .dInEsc | .dInStartFrame | .dInStartEmpty | .dAeCode0 | .dAeCode1 | .dEos => true
  | .dSeekOther b => b != Wire.start
  | .dInData b => !Wire.isReserved b
  | .dAeBad b => !Wire.isCode b
  | .lSeekStart | .lLeadStart | .lLeadEsc | .lRunStart | .lRunEsc | .lEos => true
  | .lSeekOther b => b != Wire.start
  | .lLeadData b => !Wire.isReserved b
  | .lRunData b => !Wire.isReserved b
  | .lLeadescOk c => Wire.isCode c
  | .lLeadescBad b => !Wire.isCode b
  | .lRunesc _ => true
  | .strobeH p => p.length == Wire.strobeLength
  | .setled p => p.length == Wire.setLedLength
  | .auth p => p.length == Wire.tokenLength
  | .hrsetled p => p.length == Wire.highResLength
  | .strobeB p => p.length == Wire.strobeLength
  | .setch a _ => Wire.isModule a

end Sys2Proof
end

