-- ==== Sys2Proof/Decode.lean ====
section
/-! DEFINITION. Reading an instruction from input events, and writing it back (30_encoding.md R50 to R64). What a raw
byte means depends on the mode and the sequencing state (R50), so an instruction is read in a `Format`. -/

namespace Sys2Proof

/-- `Unesc` (R53): the literal an escape code stands for. On a byte that is no code the result is used by no rule:
every rule that would use it raises instead. -/
def unesc (c : Byte) : Byte := if c = Wire.code0 then Wire.escape else Wire.start

/-- `esc` (R51, R140): the raw bytes of one unescaped byte. -/
def escByte (v : Byte) : List Byte :=
  if v = Wire.escape then [Wire.escape, Wire.code0]
  else if v = Wire.start then [Wire.escape, Wire.code1]
  else [v]

/-- The symbol class of a raw byte (R50). -/
def symbolClass (b : Byte) : Instr :=
  if b = Wire.start then .start
  else if b = Wire.escape then .escape
  else if b = Wire.code0 then .code0
  else if b = Wire.code1 then .code1
  else .data b

/-- The escape sequence that `ESCAPE` makes with a code byte (R52). -/
def escapePair (c : Byte) : Instr :=
  if c = Wire.code0 then .esc54
  else if c = Wire.code1 then .esc55
  else .escBad c

/-- The row of the `DELIM` transition table for a byte (40_framing_delimiter_mode.md R80). -/
def delimRow (q : Sync) (bufEmpty : Bool) (b : Byte) : Instr :=
  match q with
  | .seekingStart => if b = Wire.start then .dSeekStart else .dSeekOther b
  | .inFrame =>
    if b = Wire.escape then .dInEsc
    else if b = Wire.start then (if bufEmpty then .dInStartEmpty else .dInStartFrame)
    else .dInData b
  | .afterEscape =>
    if b = Wire.code0 then .dAeCode0
    else if b = Wire.code1 then .dAeCode1
    else .dAeBad b

/-- The row of the `LENGTH` transition table for a byte (41_framing_length_mode.md R107). -/
def lengthRow (q : Sync) (bufEmpty : Bool) (b : Byte) : Instr :=
  match q with
  | .seekingStart => if b = Wire.start then .lSeekStart else .lSeekOther b
  | .inFrame =>
    if bufEmpty then
      (if b = Wire.start then .lLeadStart else if b = Wire.escape then .lLeadEsc else .lLeadData b)
    else
      (if b = Wire.start then .lRunStart else if b = Wire.escape then .lRunEsc else .lRunData b)
  | .afterEscape =>
    if bufEmpty then (if Wire.isCode b then .lLeadescOk b else .lLeadescBad b)
    else .lRunesc b

/-- The one transition row that applies to a mode, a state and an input event (R22, R70, R80, R107). -/
def transitionRow (m : Mode) (q : Sync) (bufEmpty : Bool) (ev : InputEvent) : Instr :=
  match m, ev with
  | .delim, .eos => .dEos
  | .length, .eos => .lEos
  | .delim, .byte b => delimRow q bufEmpty b
  | .length, .byte b => lengthRow q bufEmpty b

/-- The dispatch row of an unescaped lead byte, with the payload as operand: five exact values, else row 5 (R61). -/
def frameRow (lead : Byte) (payload : List Byte) : Instr :=
  if lead = Wire.strobeHigh then .strobeH payload
  else if lead = Wire.opSetLed then .setled payload
  else if lead = Wire.opAuth then .auth payload
  else if lead = Wire.opHighRes then .hrsetled payload
  else if lead = Wire.strobeBus then .strobeB payload
  else .setch lead payload

/-- Put a byte before an unescaped rest, if the rest could be read. -/
def consUnescaped (v : Byte) (rest : Except DecodeError (List Byte)) : Except DecodeError (List Byte) :=
  match rest with
  | .ok vs => .ok (v :: vs)
  | .error e => .error e

/-- Remove the escapes of a frame body (R51, R52). -/
def unescapeBody : List InputEvent → Except DecodeError (List Byte)
  | [] => .ok []
  | .eos :: _ => .error .endOfStream
  | [.byte b] =>
    if b = Wire.escape then .error .truncated
    else if b = Wire.start then .error .rawStart
    else .ok [b]
  | .byte b :: .eos :: _ =>
    if b = Wire.start then .error .rawStart else .error .endOfStream
  | .byte b :: .byte c :: rest =>
    if b = Wire.escape then
      (if Wire.isCode c then consUnescaped (unesc c) (unescapeBody rest) else .error .badEscape)
    else if b = Wire.start then .error .rawStart
    else consUnescaped b (unescapeBody (.byte c :: rest))

/-- The frame that unescaped bytes `address ++ payload` make (R51). -/
def frameOfBytes : Except DecodeError (List Byte) → Except DecodeError Instr
  | .ok (a :: p) => .ok (frameRow a p)
  | .ok [] => .error .noLead
  | .error e => .error e

/-- Read one instruction from exactly the given input events, in a format; refuse by name otherwise. -/
def decode (f : Format) (evs : List InputEvent) : Except DecodeError Instr :=
  match f, evs with
  | .symbol, [.byte b] => .ok (symbolClass b)
  | .symbol, [] => .error .truncated
  | .symbol, .eos :: _ => .error .endOfStream
  | .symbol, .byte _ :: _ :: _ => .error .trailing
  | .escapeSequence, [.byte e, .byte c] => if e = Wire.escape then .ok (escapePair c) else .error .notEscape
  | .escapeSequence, [.byte _] => .error .truncated
  | .escapeSequence, [] => .error .truncated
  | .escapeSequence, .eos :: _ => .error .endOfStream
  | .escapeSequence, .byte _ :: .eos :: _ => .error .endOfStream
  | .escapeSequence, .byte _ :: .byte _ :: _ :: _ => .error .trailing
  | .transition m q e, [ev] => .ok (transitionRow m q e ev)
  | .transition _ _ _, [] => .error .truncated
  | .transition _ _ _, _ :: _ :: _ => .error .trailing
  | .frame, [] => .error .truncated
  | .frame, .eos :: _ => .error .endOfStream
  | .frame, .byte b :: rest => if b = Wire.start then frameOfBytes (unescapeBody rest) else .error .notStart

/-- The raw bytes of a frame (R51, R140): `START`, then every byte of `address ++ payload`, escaped where needed. -/
def frameBytes (a : Byte) (p : List Byte) : List Byte := Wire.start :: (a :: p).flatMap escByte

/-- The input events that are the instruction on the wire (R50 to R52; the end of the stream for the two event
rows). -/
def encode : Instr → List InputEvent
  | .start => [.byte Wire.start]
  | .escape => [.byte Wire.escape]
  | .code0 => [.byte Wire.code0]
  | .code1 => [.byte Wire.code1]
  | .data b => [.byte b]
  | .esc54 => [.byte Wire.escape, .byte Wire.code0]
  | .esc55 => [.byte Wire.escape, .byte Wire.code1]
  | .escBad c => [.byte Wire.escape, .byte c]
  | .dSeekStart => [.byte Wire.start]
  | .dSeekOther b => [.byte b]
  | .dInEsc => [.byte Wire.escape]
  | .dInStartFrame => [.byte Wire.start]
  | .dInStartEmpty => [.byte Wire.start]
  | .dInData b => [.byte b]
  | .dAeCode0 => [.byte Wire.code0]
  | .dAeCode1 => [.byte Wire.code1]
  | .dAeBad b => [.byte b]
  | .dEos => [.eos]
  | .lSeekStart => [.byte Wire.start]
  | .lSeekOther b => [.byte b]
  | .lLeadStart => [.byte Wire.start]
  | .lLeadEsc => [.byte Wire.escape]
  | .lLeadData b => [.byte b]
  | .lRunStart => [.byte Wire.start]
  | .lRunEsc => [.byte Wire.escape]
  | .lRunData b => [.byte b]
  | .lLeadescOk c => [.byte c]
  | .lLeadescBad b => [.byte b]
  | .lRunesc b => [.byte b]
  | .lEos => [.eos]
  | .strobeH p => (frameBytes Wire.strobeHigh p).map .byte
  | .setled p => (frameBytes Wire.opSetLed p).map .byte
  | .auth p => (frameBytes Wire.opAuth p).map .byte
  | .hrsetled p => (frameBytes Wire.opHighRes p).map .byte
  | .strobeB p => (frameBytes Wire.strobeBus p).map .byte
  | .setch a p => (frameBytes a p).map .byte

/-- The formats in which a row of the table is read: the row's own format, and for a transition row the mode and the
state columns of opcode_table.json. -/
def readIn : Instr → Format → Bool
  | .start, .symbol | .escape, .symbol | .code0, .symbol | .code1, .symbol | .data _, .symbol => true
  | .esc54, .escapeSequence | .esc55, .escapeSequence | .escBad _, .escapeSequence => true
  | .dSeekStart, .transition .delim .seekingStart _ => true
  | .dSeekOther _, .transition .delim .seekingStart _ => true
  | .dInEsc, .transition .delim .inFrame _ => true
  | .dInStartFrame, .transition .delim .inFrame e => !e
  | .dInStartEmpty, .transition .delim .inFrame e => e
  | .dInData _, .transition .delim .inFrame _ => true
  | .dAeCode0, .transition .delim .afterEscape _ => true
  | .dAeCode1, .transition .delim .afterEscape _ => true
  | .dAeBad _, .transition .delim .afterEscape _ => true
  | .dEos, .transition .delim _ _ => true
  | .lSeekStart, .transition .length .seekingStart _ => true
  | .lSeekOther _, .transition .length .seekingStart _ => true
  | .lLeadStart, .transition .length .inFrame e => e
  | .lLeadEsc, .transition .length .inFrame e => e
  | .lLeadData _, .transition .length .inFrame e => e
  | .lRunStart, .transition .length .inFrame e => !e
  | .lRunEsc, .transition .length .inFrame e => !e
  | .lRunData _, .transition .length .inFrame e => !e
  | .lLeadescOk _, .transition .length .afterEscape e => e
  | .lLeadescBad _, .transition .length .afterEscape e => e
  | .lRunesc _, .transition .length .afterEscape e => !e
  | .lEos, .transition .length _ _ => true
  | .strobeH _, .frame | .setled _, .frame | .auth _, .frame | .hrsetled _, .frame | .strobeB _, .frame => true
  | .setch _ _, .frame => true
  | _, _ => false

/-- The values that an exact row of opcode_table.json gives in format FRAME only: 0x02, 0x03, 0xFE, 0xFF. -/
def isFrameWord (b : Byte) : Bool :=
  b == Wire.opAuth || b == Wire.opHighRes || b == Wire.strobeBus || b == Wire.strobeHigh

/-- The frame a FRAME row's lead byte makes with an operand of zeros. -/
def zeroFrame (a : Byte) : List Byte := frameBytes a (List.replicate ((Wire.fixedLength a).getD 0) 0#8)

/-- In which format a word of the opcode table is read: the rows with an exact match first, in the table's order,
then the first row that matches the rest (log 4). No bits at all is the end-of-stream event. -/
def tableFormat (nbits w : Nat) : Option Format :=
  match nbits with
  | 0 => some (.transition .delim .seekingStart true)
  | 8 => some (if isFrameWord (BitVec.ofNat 8 w) then .frame else .symbol)
  | 16 => some .escapeSequence
  | _ => none

/-- The input events of a word of the opcode table. Of a 16-bit word the earlier byte is the high half (R61). -/
def tableEvents (nbits w : Nat) : List InputEvent :=
  match nbits with
  | 8 =>
    if isFrameWord (BitVec.ofNat 8 w) then (zeroFrame (BitVec.ofNat 8 w)).map .byte
    else [.byte (BitVec.ofNat 8 w)]
  | 16 => [.byte (BitVec.ofNat 8 (w / 256)), .byte (BitVec.ofNat 8 w)]
  | _ => [.eos]

/-- The instruction the decoder reads from a word of the opcode table. Several rows share one word, because a raw
byte means different rows in different modes and states (R50); the table's word alone then names the symbol class
(log 4). -/
def decodeTableWord (nbits w : Nat) : Option Instr :=
  match tableFormat nbits w with
  | some f => (decode f (tableEvents nbits w)).toOption
  | none => none

end Sys2Proof
end

