-- ==== Sys2Proof/Machine/Operands.lean ====
section
/-! DEFINITION. The operands of the six frame forms: big-endian pairing and the field positions (20_memory.md R30,
30_encoding.md R55 to R60, 42_command_dispatch.md R121 to R126, R129). -/

namespace Sys2Proof

/-- `hi << 8 | lo` (R7, R30, R60): both bytes zero-extended to 16 bits. -/
def word16 (hi lo : Byte) : Word16 := (hi.zeroExtend 16 <<< 8) ||| lo.zeroExtend 16

/-- `hi(v) = v[15:8]` (R141). -/
def hiByte (v : Word16) : Byte := v.extractLsb' 8 8

/-- `lo(v) = v[7:0]` (R141). -/
def loByte (v : Word16) : Byte := v.extractLsb' 0 8

/-- `p[i]`; the rows read it only within the payload, whose length was checked (R120). -/
def byteAt (p : List Byte) (i : Nat) : Byte := p.getD i 0#8

/-- The 16-bit field whose high byte is `p[i]`. -/
def wordAt (p : List Byte) (i : Nat) : Word16 := word16 (byteAt p i) (byteAt p (i + 1))

/-- Row 0 (R121). -/
def strobeHCommand : Command := .strobe Wire.strobeHigh

/-- Row 1 (R55, R122). -/
def setLedCommand (p : List Byte) : Command :=
  .setLed (wordAt p 0) (byteAt p 2) (byteAt p 3) (byteAt p 4) (byteAt p 5)

/-- Row 2 (R56, R123): the payload in arrival order. -/
def authCommand (p : List Byte) : Command := .authenticate p

/-- Row 3 (R57, R124). -/
def highResCommand (p : List Byte) : Command :=
  .highResSetLed (wordAt p 0) (wordAt p 2) (wordAt p 4) (wordAt p 6) (wordAt p 8)

/-- Row 4 (R125). -/
def strobeBCommand : Command := .strobe Wire.strobeBus

/-- Row 5 (R59, R126). -/
def setChannelsCommand (a : Byte) (p : List Byte) : Command := .setChannels a p

/-- The command a frame of the right length is (R120): five exact lead values, else row 5. -/
def commandOf (f : Frame) : Command :=
  if f.address = Wire.strobeHigh then strobeHCommand
  else if f.address = Wire.opSetLed then setLedCommand f.payload
  else if f.address = Wire.opAuth then authCommand f.payload
  else if f.address = Wire.opHighRes then highResCommand f.payload
  else if f.address = Wire.strobeBus then strobeBCommand
  else setChannelsCommand f.address f.payload

/-- The index of the dispatch row that fired, which a realisation may present as a one-of-six select (R21, R54,
D16). -/
def Command.row : Command → Nat
  | .strobe lead => if lead = Wire.strobeHigh then 0 else 4
  | .setLed .. => 1
  | .authenticate _ => 2
  | .highResSetLed .. => 3
  | .setChannels .. => 5

/-- The error number of R160 (identity only, D15). -/
def ErrorCode.number : ErrorCode → Nat
  | .pvEscape => 1
  | .pvLength => 2
  | .unexpectedSync => 3
  | .unknownAddress => 4

/-- The document's class of an error (R160, 90_conflicts.md C5). -/
def ErrorCode.documentClass : ErrorCode → ErrorClass
  | .pvEscape => .protocolViolation
  | .pvLength => .protocolViolation
  | .unexpectedSync => .unexpectedSyncError
  | .unknownAddress => .unknownAddressError

end Sys2Proof
end

