-- ==== Sys2Proof/Machine/Memory.lean ====
section
/-! DEFINITION. The `ML` table: its canonical form, reading and loading an entry, and the length function
(10_state.md R18, 20_memory.md R34, 41_framing_length_mode.md R90). -/

namespace Sys2Proof

/-- Addresses strictly rise from `low` and stay below 256. -/
def Memory.risingFrom (low : Nat) : Memory → Bool
  | [] => true
  | (a, _) :: rest => decide (low ≤ a) && decide (a < 256) && Memory.risingFrom (a + 1) rest

/-- The canonical form: strictly rising addresses of the 256-entry space (R34). An address that is not listed has no
entry, so no listed pair says what an unlisted address says already. -/
def Memory.wf (m : Memory) : Bool := Memory.risingFrom 0 m

/-- `MemRead(ML, a)` (R8, R18): the length of module `a`, or none. No side effect (R33). -/
def Memory.read : Memory → Byte → Option Nat
  | [], _ => none
  | (x, v) :: rest, a => if x = a.toNat then some v else Memory.read rest a

/-- Load entry `a`, or remove it. The VFD never writes the table (R17); whoever builds the configuration does
(R191). -/
def Memory.write : Memory → Byte → Option Nat → Memory
  | [], a, some v => [(a.toNat, v)]
  | [], _, none => []
  | (x, u) :: rest, a, v =>
    if x < a.toNat then (x, u) :: Memory.write rest a v
    else if x = a.toNat then
      match v with
      | some w => (x, w) :: rest
      | none => rest
    else
      match v with
      | some w => (a.toNat, w) :: (x, u) :: rest
      | none => (x, u) :: rest

/-- `LMAX` (R6, R37): every entry is at most `l`. -/
def Memory.boundedBy (m : Memory) (l : Nat) : Bool := m.all (fun e => decide (e.2 ≤ l))

/-- `ExpectedLen(a)` (R90): the five fixed lead bytes first, every other one from the table. -/
def expectedLen (ml : Memory) (a : Byte) : Option Nat :=
  match Wire.fixedLength a with
  | some n => some n
  | none => ml.read a

end Sys2Proof
end

