-- ==== Sys2Proof/Machine/State.lean ====
section
/-! DEFINITION. The state of the VFD as plain data (10_state.md R11 to R18, R20, R21, R25), why it can stop, and its
reset value (R23, R190). -/

namespace Sys2Proof.Machine

/-- The machine. `sync` to `badEsc` are the five registers of the spec, `mode` and `ml` its configuration, which no
step writes (R17); `out` is the output port; the last three are the model's side of the event interface: the events
the host has still to deliver, their index, and the observation of the run. -/
structure State where
  /-- `sync` (R11). -/
  sync : Sync
  /-- `buf` (R12): the unescaped bytes of the frame under construction, lead byte first. -/
  buf : List Byte
  /-- `rem` (R13): raw bytes of the run still to be read. -/
  rem : Nat
  /-- `sync_seen` (R14). -/
  syncSeen : Bool
  /-- `bad_esc` (R15). -/
  badEsc : Bool
  /-- `MODE` (R16). -/
  mode : Mode
  /-- `ML` (R18). -/
  ml : Memory
  /-- The output of the step just taken (R21). -/
  out : Output
  /-- The input events not yet delivered, the next one first (R20). -/
  input : List InputEvent
  /-- The index of the next input event (R25): no rule reads it. -/
  pos : Nat
  /-- The observation (R22): the outputs other than `None`, each with the index of the event that produced it. -/
  trace : List (Nat × Output)
deriving DecidableEq, Repr

/-- The ways the machine stops with a fault: none. `step` is total (R22), and no error puts the VFD into a terminal
or stuck state (R168). -/
inductive Fault where
deriving DecidableEq, Repr

/-- The ways the model declines an instruction. -/
inductive Refusal where
  /-- An arm of `exec` without a meaning; no arm of this model answers so. Safe: the model stops. -/
  | notModelled (mnemonic : String)
  /-- A row of the opcode table was asked to execute in a mode or a state, or with an operand, that its rule excludes;
  raised by the meaning of that row. The spec gives the row no effect there (another row applies, R70), and `step`
  never selects such a row. Safe: the model stops. -/
  | rowNotSelected (mnemonic : String)
deriving DecidableEq, Repr

/-- The machine right after reset (R23, R190), with no event delivered. The spec gives `MODE` and `ML` no reset value
("inputs held by the host"): DESIGN CHOICE `DELIM` and no entry, log 1, unsafe. -/
def State.reset : State where
  sync := .seekingStart
  buf := []
  rem := 0
  syncSeen := false
  badEsc := false
  mode := .delim
  ml := []
  out := .none
  input := []
  pos := 0
  trace := []

end Sys2Proof.Machine
end

