-- ==== Sys2Proof/Machine/Ops.lean ====
section
/-! DEFINITION. The named operations on the registers and the output port: the error entry (60_exceptions.md R166) and
the way back into a frame (R168), the reset values, and the guard of a table row. -/

namespace Sys2Proof.Machine

/-- Present an output for this step (R21). -/
def State.emit (s : State) (o : Output) : State := { s with out := o }

/-- `output None`. -/
def State.quiet (s : State) : State := s.emit .none

/-- `buf <- buf ++ [b]`, the only store of the hardware (R8 `MemWrite`). -/
def State.appendByte (s : State) (b : Byte) : State := { s with buf := s.buf ++ [b] }

/-- The buffer, the counter and the two flags at their reset values. -/
def State.clearFrame (s : State) : State :=
  { s with buf := [], rem := 0, syncSeen := false, badEsc := false }

/-- The five registers at their reset values (R23); the configuration is untouched (R17). -/
def State.clearRegisters (s : State) : State := { s.clearFrame with sync := .seekingStart }

/-- The lead byte, if one has been captured (R12, R160). -/
def State.lead (s : State) : Option Byte := s.buf.head?

/-- `raise` (R8): the ONE error entry, for an error that the framing layer finds (the first five rows of the table of
R166). The report is the output of this step, nothing is saved, the partial frame is dropped and the decoder seeks the
next `START`. (The last two rows of that table are the dispatch results of R74, which keeps `sync`.) -/
def State.raise (s : State) (code : ErrorCode) (lead : Option Byte) : State :=
  s.clearRegisters.emit (.err code lead)

/-- Return from an error (R168) and the start of a session alike: a `START` opens a frame with an empty buffer
(R71). -/
def State.openFrame (s : State) : State := { s with sync := .inFrame, buf := [] }

/-- The reset event of the host (R190): the registers take their reset values, a new configuration may be presented,
there is no output event. It lies outside the input stream. -/
def State.hostReset (s : State) (mode : Mode) (ml : Memory) : State :=
  { s.clearRegisters.quiet with mode := mode, ml := ml }

/-- The effect of a table row where the row applies; elsewhere the row is declined by name. -/
def whenSelected (mnemonic : String) (applies : Bool) (t : State) : Host.Outcome State Fault Refusal :=
  if applies then .next t else .refused (.rowNotSelected mnemonic)

/-- The event of a sequence of two steps: at most one of them produces one, since a first step with an event leaves
the decoder seeking or at the lead position (R166, R170). -/
def firstEvent (a b : Output) : Output :=
  match a with
  | .none => b
  | .cmd c => .cmd c
  | .err e l => .err e l

/-- Two effects in order, with the event they produce. -/
def inSequence (first : Host.Outcome State Fault Refusal)
    (second : State → Host.Outcome State Fault Refusal) : Host.Outcome State Fault Refusal :=
  match first with
  | .next t =>
    match second t with
    | .next u => .next (u.emit (firstEvent t.out u.out))
    | .fault r => .fault r
    | .refused r => .refused r
  | .fault r => .fault r
  | .refused r => .refused r

/-- `MODE = DELIM` and `sync = q`. -/
def State.delimIn (s : State) (q : Sync) : Bool := s.mode == .delim && s.sync == q

/-- `MODE = LENGTH` and `sync = q`. -/
def State.lengthIn (s : State) (q : Sync) : Bool := s.mode == .length && s.sync == q

end Sys2Proof.Machine
end

