-- ==== Sys2Proof/Machine/Commands.lean ====
section
/-! DEFINITION. The opcode-dispatch multiplexer (42_command_dispatch.md R120 to R131) and the meanings of the six
FRAME rows. `Dispatch` writes no register; the framing rule that completes the frame does. -/

namespace Sys2Proof.Machine

/-- The two tests of `Dispatch` (R120, R127, R128): the address is known, then the length is right. -/
def checkedOutput (ml : Memory) (a : Byte) (p : List Byte) (c : Command) : Output :=
  match expectedLen ml a with
  | none => .err .unknownAddress (some a)
  | some e => if p.length ≠ e then .err .pvLength (some a) else .cmd c

/-- `Dispatch(frame)` (R120). -/
def dispatch (ml : Memory) (f : Frame) : Output := checkedOutput ml f.address f.payload (commandOf f)

/-- `STROBE.H` (R121). -/
def execStrobeH (p : List Byte) (s : State) : Host.Outcome State Fault Refusal :=
  .next (s.emit (checkedOutput s.ml Wire.strobeHigh p strobeHCommand))

/-- `SETLED` (R122). -/
def execSetled (p : List Byte) (s : State) : Host.Outcome State Fault Refusal :=
  .next (s.emit (checkedOutput s.ml Wire.opSetLed p (setLedCommand p)))

/-- `AUTH` (R123): the token is delivered, never checked; nothing is gated by it (R180). -/
def execAuth (p : List Byte) (s : State) : Host.Outcome State Fault Refusal :=
  .next (s.emit (checkedOutput s.ml Wire.opAuth p (authCommand p)))

/-- `HRSETLED` (R124). -/
def execHrsetled (p : List Byte) (s : State) : Host.Outcome State Fault Refusal :=
  .next (s.emit (checkedOutput s.ml Wire.opHighRes p (highResCommand p)))

/-- `STROBE.B` (R125). -/
def execStrobeB (p : List Byte) (s : State) : Host.Outcome State Fault Refusal :=
  .next (s.emit (checkedOutput s.ml Wire.strobeBus p strobeBCommand))

/-- `SETCH` (R126): row 5, for a lead byte that none of the five fixed rows claims. -/
def execSetch (a : Byte) (p : List Byte) (s : State) : Host.Outcome State Fault Refusal :=
  whenSelected "SETCH" (Wire.isModule a) (s.emit (checkedOutput s.ml a p (setChannelsCommand a p)))

end Sys2Proof.Machine
end

