-- ==== Sys2Proof/Machine/Delim.lean ====
section
/-! DEFINITION. Framing in delimiter-terminated mode (40_framing_delimiter_mode.md R71 to R81): one meaning per row. In
this mode the counter and the flags are written only to their reset values, by the error entry and the end of the
stream. -/

namespace Sys2Proof.Machine

/-- `D-SEEK-START` (R71). -/
def execDSeekStart (s : State) : Host.Outcome State Fault Refusal :=
  whenSelected "D-SEEK-START" (s.delimIn .seekingStart) s.openFrame.quiet

/-- `D-SEEK-OTHER` (R72): the byte is discarded without a report. -/
def execDSeekOther (b : Byte) (s : State) : Host.Outcome State Fault Refusal :=
  whenSelected "D-SEEK-OTHER" (s.delimIn .seekingStart && b != Wire.start) s.quiet

/-- `D-IN-ESC` (R73). -/
def execDInEsc (s : State) : Host.Outcome State Fault Refusal :=
  whenSelected "D-IN-ESC" (s.delimIn .inFrame) { s.quiet with sync := .afterEscape }

/-- `D-IN-START-FRAME` (R74): the buffer is a complete frame, and this `START` opens the next one, after a dispatch
error too (90_conflicts.md C2). -/
def execDInStartFrame (s : State) : Host.Outcome State Fault Refusal :=
  match s.buf with
  | [] => .refused (.rowNotSelected "D-IN-START-FRAME")
  | a :: p => whenSelected "D-IN-START-FRAME" (s.delimIn .inFrame) { s.emit (dispatch s.ml ⟨a, p⟩) with buf := [] }

/-- `D-IN-START-EMPTY` (R75): idle fill. -/
def execDInStartEmpty (s : State) : Host.Outcome State Fault Refusal :=
  whenSelected "D-IN-START-EMPTY" (s.delimIn .inFrame && s.buf.isEmpty) s.quiet

/-- `D-IN-DATA` (R76). -/
def execDInData (b : Byte) (s : State) : Host.Outcome State Fault Refusal :=
  whenSelected "D-IN-DATA" (s.delimIn .inFrame && !Wire.isReserved b) (s.appendByte b).quiet

/-- `D-AE-CODE0` (R77). -/
def execDAeCode0 (s : State) : Host.Outcome State Fault Refusal :=
  whenSelected "D-AE-CODE0" (s.delimIn .afterEscape)
    { (s.appendByte (unesc Wire.code0)).quiet with sync := .inFrame }

/-- `D-AE-CODE1` (R78): the appended `0x55` is data. -/
def execDAeCode1 (s : State) : Host.Outcome State Fault Refusal :=
  whenSelected "D-AE-CODE1" (s.delimIn .afterEscape)
    { (s.appendByte (unesc Wire.code1)).quiet with sync := .inFrame }

/-- `D-AE-BAD` (R79): the violating byte is consumed, a `START` too (D8). -/
def execDAeBad (b : Byte) (s : State) : Host.Outcome State Fault Refusal :=
  whenSelected "D-AE-BAD" (s.delimIn .afterEscape && !Wire.isCode b) (s.raise .pvEscape s.lead)

/-- `D-EOS` (R81): the partial frame is discarded, which is no error. -/
def execDEos (s : State) : Host.Outcome State Fault Refusal :=
  whenSelected "D-EOS" (s.mode == .delim) s.clearRegisters.quiet

end Sys2Proof.Machine
end

