-- ==== Sys2Proof/Machine/Flags.lean ====
section
/-! DEFINITION. What one raw byte of a run does to the counter and to the sticky flags (10_state.md R13 to R15,
41_framing_length_mode.md R99 to R101, R104). -/

namespace Sys2Proof.Machine

/-- `sync_seen` (R14): set by a raw `START` in a run, whatever stands before it (90_conflicts.md C3). -/
def syncSeenAfter (seen : Bool) (b : Byte) : Bool := seen || b == Wire.start

/-- `bad_esc` (R15): set by a byte after `ESCAPE` that is no escape code. -/
def badEscAfter (bad : Bool) (c : Byte) : Bool := bad || !Wire.isCode c

/-- `rem` (R13, R92): every raw byte of a run costs one, an `ESCAPE` byte earns one back wherever it stands
(90_conflicts.md C6). The subtraction is truncated at 0. -/
def remAfter (rem : Nat) (b : Byte) : Nat := if b = Wire.escape then rem else rem - 1

/-- What the code byte of an escape sequence appends to the buffer (R104): the literal of a code, nothing else. -/
def literalOf (c : Byte) : List Byte := if Wire.isCode c then [unesc c] else []

end Sys2Proof.Machine
end

