-- ==== Sys2Proof/Machine/Length.lean ====
section
/-! DEFINITION. Framing in length-aware mode (41_framing_length_mode.md R93 to R106): the byte-at-a-time realisation,
one meaning per row. The batch procedure R91 is Machine/Reference.lean. -/

namespace Sys2Proof.Machine

/-- `LeadAccept(a)` (R98): unknown address, zero-length frame, or the start of a run. -/
def State.leadAccept (s : State) (a : Byte) : State :=
  match expectedLen s.ml a with
  | none => s.raise .unknownAddress (some a)
  | some 0 => { s.clearFrame.emit (dispatch s.ml ⟨a, []⟩) with sync := .inFrame }
  | some (e + 1) => { s.clearFrame.quiet with sync := .inFrame, buf := [a], rem := e + 1 }

/-- `RunComplete` (R105), on the registers as the step has updated them. The scan for `START` comes before the
unescaping (R167). Its callers hold a non-empty buffer. -/
def State.runComplete (s : State) : State :=
  if s.syncSeen then s.raise .unexpectedSync s.lead
  else if s.badEsc then s.raise .pvEscape s.lead
  else
    match s.buf with
    | [] => { s.quiet with sync := .inFrame, rem := 0 }
    | a :: p => { s.emit (dispatch s.ml ⟨a, p⟩) with sync := .inFrame, buf := [], rem := 0 }

/-- `complete?` (R107): the run is complete in the step that brings the counter to 0. -/
def State.completeIfDone (s : State) : State := if s.rem = 0 then s.runComplete else s.quiet

/-- `L-SEEK-START` (R93). -/
def execLSeekStart (s : State) : Host.Outcome State Fault Refusal :=
  whenSelected "L-SEEK-START" (s.lengthIn .seekingStart) s.clearFrame.openFrame.quiet

/-- `L-SEEK-OTHER` (R94). -/
def execLSeekOther (b : Byte) (s : State) : Host.Outcome State Fault Refusal :=
  whenSelected "L-SEEK-OTHER" (s.lengthIn .seekingStart && b != Wire.start) s.quiet

/-- `L-LEAD-START` (R95): idle fill, or the delimiter of the next frame. -/
def execLLeadStart (s : State) : Host.Outcome State Fault Refusal :=
  whenSelected "L-LEAD-START" (s.lengthIn .inFrame && s.buf.isEmpty) s.quiet

/-- `L-LEAD-ESC` (R96). -/
def execLLeadEsc (s : State) : Host.Outcome State Fault Refusal :=
  whenSelected "L-LEAD-ESC" (s.lengthIn .inFrame && s.buf.isEmpty) { s.quiet with sync := .afterEscape }

/-- `L-LEAD-DATA` (R97). -/
def execLLeadData (b : Byte) (s : State) : Host.Outcome State Fault Refusal :=
  whenSelected "L-LEAD-DATA" (s.lengthIn .inFrame && s.buf.isEmpty && !Wire.isReserved b) (s.leadAccept b)

/-- `L-RUN-START` (R100): counted and remembered; no frame is restarted here (D6). -/
def execLRunStart (s : State) : Host.Outcome State Fault Refusal :=
  whenSelected "L-RUN-START" (s.lengthIn .inFrame && !s.buf.isEmpty)
    ({ s.appendByte Wire.start with
        syncSeen := syncSeenAfter s.syncSeen Wire.start
        rem := remAfter s.rem Wire.start } : State).completeIfDone

/-- `L-RUN-ESC` (R101): the run cannot complete here. -/
def execLRunEsc (s : State) : Host.Outcome State Fault Refusal :=
  whenSelected "L-RUN-ESC" (s.lengthIn .inFrame && !s.buf.isEmpty)
    { s.quiet with sync := .afterEscape, rem := remAfter s.rem Wire.escape }

/-- `L-RUN-DATA` (R99): `0xFE` and `0xFF` are data here (D22). -/
def execLRunData (b : Byte) (s : State) : Host.Outcome State Fault Refusal :=
  whenSelected "L-RUN-DATA" (s.lengthIn .inFrame && !s.buf.isEmpty && !Wire.isReserved b)
    ({ s.appendByte b with rem := remAfter s.rem b } : State).completeIfDone

/-- `L-LEADESC-OK` (R102). -/
def execLLeadescOk (c : Byte) (s : State) : Host.Outcome State Fault Refusal :=
  whenSelected "L-LEADESC-OK" (s.lengthIn .afterEscape && s.buf.isEmpty && Wire.isCode c) (s.leadAccept (unesc c))

/-- `L-LEADESC-BAD` (R103): reported at once, with no lead byte. -/
def execLLeadescBad (b : Byte) (s : State) : Host.Outcome State Fault Refusal :=
  whenSelected "L-LEADESC-BAD" (s.lengthIn .afterEscape && s.buf.isEmpty && !Wire.isCode b) (s.raise .pvEscape none)

/-- `L-RUNESC` (R104): the second byte of a pair, whatever its value. -/
def execLRunesc (b : Byte) (s : State) : Host.Outcome State Fault Refusal :=
  whenSelected "L-RUNESC" (s.lengthIn .afterEscape && !s.buf.isEmpty)
    ({ s with
        sync := .inFrame
        buf := s.buf ++ literalOf b
        syncSeen := syncSeenAfter s.syncSeen b
        badEsc := badEscAfter s.badEsc b
        rem := remAfter s.rem b } : State).completeIfDone

/-- `L-EOS` (R106): a run cut short reports nothing, even with a flag set. -/
def execLEos (s : State) : Host.Outcome State Fault Refusal :=
  whenSelected "L-EOS" (s.mode == .length) s.clearRegisters.quiet

end Sys2Proof.Machine
end

