-- ==== Sys2Proof/Machine/Symbols.lean ====
section
/-! DEFINITION. The meanings of the symbol classes (30_encoding.md R50), each the column of the transition tables R80
and R107 under its byte, and of the escape sequences (R52, R53, R161), each its two bytes in order. -/

namespace Sys2Proof.Machine

/-- `START` (R50): the column `55` of R80 and R107. -/
def execStart (s : State) : Host.Outcome State Fault Refusal :=
  match s.mode, s.sync, s.buf with
  | .delim, .seekingStart, _ => execDSeekStart s
  | .delim, .inFrame, [] => execDInStartEmpty s
  | .delim, .inFrame, _ :: _ => execDInStartFrame s
  | .delim, .afterEscape, _ => execDAeBad Wire.start s
  | .length, .seekingStart, _ => execLSeekStart s
  | .length, .inFrame, [] => execLLeadStart s
  | .length, .inFrame, _ :: _ => execLRunStart s
  | .length, .afterEscape, [] => execLLeadescBad Wire.start s
  | .length, .afterEscape, _ :: _ => execLRunesc Wire.start s

/-- `ESCAPE` (R50): the column `54` of R80 and R107. -/
def execEscape (s : State) : Host.Outcome State Fault Refusal :=
  match s.mode, s.sync, s.buf with
  | .delim, .seekingStart, _ => execDSeekOther Wire.escape s
  | .delim, .inFrame, _ => execDInEsc s
  | .delim, .afterEscape, _ => execDAeBad Wire.escape s
  | .length, .seekingStart, _ => execLSeekOther Wire.escape s
  | .length, .inFrame, [] => execLLeadEsc s
  | .length, .inFrame, _ :: _ => execLRunEsc s
  | .length, .afterEscape, [] => execLLeadescBad Wire.escape s
  | .length, .afterEscape, _ :: _ => execLRunesc Wire.escape s

/-- `CODE0` (R50): the column `00` of R80 and R107. -/
def execCode0 (s : State) : Host.Outcome State Fault Refusal :=
  match s.mode, s.sync, s.buf with
  | .delim, .seekingStart, _ => execDSeekOther Wire.code0 s
  | .delim, .inFrame, _ => execDInData Wire.code0 s
  | .delim, .afterEscape, _ => execDAeCode0 s
  | .length, .seekingStart, _ => execLSeekOther Wire.code0 s
  | .length, .inFrame, [] => execLLeadData Wire.code0 s
  | .length, .inFrame, _ :: _ => execLRunData Wire.code0 s
  | .length, .afterEscape, [] => execLLeadescOk Wire.code0 s
  | .length, .afterEscape, _ :: _ => execLRunesc Wire.code0 s

/-- `CODE1` (R50): the column `01` of R80 and R107. -/
def execCode1 (s : State) : Host.Outcome State Fault Refusal :=
  match s.mode, s.sync, s.buf with
  | .delim, .seekingStart, _ => execDSeekOther Wire.code1 s
  | .delim, .inFrame, _ => execDInData Wire.code1 s
  | .delim, .afterEscape, _ => execDAeCode1 s
  | .length, .seekingStart, _ => execLSeekOther Wire.code1 s
  | .length, .inFrame, [] => execLLeadData Wire.code1 s
  | .length, .inFrame, _ :: _ => execLRunData Wire.code1 s
  | .length, .afterEscape, [] => execLLeadescOk Wire.code1 s
  | .length, .afterEscape, _ :: _ => execLRunesc Wire.code1 s

/-- The column "other byte" of R80 and R107. -/
def otherByte (b : Byte) (s : State) : Host.Outcome State Fault Refusal :=
  match s.mode, s.sync, s.buf with
  | .delim, .seekingStart, _ => execDSeekOther b s
  | .delim, .inFrame, _ => execDInData b s
  | .delim, .afterEscape, _ => execDAeBad b s
  | .length, .seekingStart, _ => execLSeekOther b s
  | .length, .inFrame, [] => execLLeadData b s
  | .length, .inFrame, _ :: _ => execLRunData b s
  | .length, .afterEscape, [] => execLLeadescBad b s
  | .length, .afterEscape, _ :: _ => execLRunesc b s

/-- `DATA b` (R50): a byte of none of the four exact classes. -/
def execData (b : Byte) (s : State) : Host.Outcome State Fault Refusal :=
  if Wire.isCode b || Wire.isReserved b then .refused (.rowNotSelected "DATA") else otherByte b s

/-- `ESC.54` (R52, R53): the two raw bytes `54 00`. -/
def execEsc54 (s : State) : Host.Outcome State Fault Refusal := inSequence (execEscape s) execCode0

/-- `ESC.55` (R52, R53): the two raw bytes `54 01`. -/
def execEsc55 (s : State) : Host.Outcome State Fault Refusal := inSequence (execEscape s) execCode1

/-- `ESC.BAD` (R52, R161): the two raw bytes `54 c` with `c` no escape code, `54` and `55` among them. -/
def execEscBad (c : Byte) (s : State) : Host.Outcome State Fault Refusal :=
  if Wire.isCode c then .refused (.rowNotSelected "ESC.BAD")
  else if c = Wire.escape then inSequence (execEscape s) execEscape
  else if c = Wire.start then inSequence (execEscape s) execStart
  else inSequence (execEscape s) (otherByte c)

end Sys2Proof.Machine
end

