-- ==== Sys2Proof/Machine/Dispatch.lean ====
section
/-! DEFINITION. One arm per instruction, each a direct call of that instruction's meaning. -/

namespace Sys2Proof.Machine

def exec (i : Instr) (s : State) : Host.Outcome State Fault Refusal :=
  match i with
  | .start => Sys2Proof.Machine.execStart s
  | .escape => Sys2Proof.Machine.execEscape s
  | .code0 => Sys2Proof.Machine.execCode0 s
  | .code1 => Sys2Proof.Machine.execCode1 s
  | .data b => Sys2Proof.Machine.execData b s
  | .esc54 => Sys2Proof.Machine.execEsc54 s
  | .esc55 => Sys2Proof.Machine.execEsc55 s
  | .escBad c => Sys2Proof.Machine.execEscBad c s
  | .dSeekStart => Sys2Proof.Machine.execDSeekStart s
  | .dSeekOther b => Sys2Proof.Machine.execDSeekOther b s
  | .dInEsc => Sys2Proof.Machine.execDInEsc s
  | .dInStartFrame => Sys2Proof.Machine.execDInStartFrame s
  | .dInStartEmpty => Sys2Proof.Machine.execDInStartEmpty s
  | .dInData b => Sys2Proof.Machine.execDInData b s
  | .dAeCode0 => Sys2Proof.Machine.execDAeCode0 s
  | .dAeCode1 => Sys2Proof.Machine.execDAeCode1 s
  | .dAeBad b => Sys2Proof.Machine.execDAeBad b s
  | .dEos => Sys2Proof.Machine.execDEos s
  | .lSeekStart => Sys2Proof.Machine.execLSeekStart s
  | .lSeekOther b => Sys2Proof.Machine.execLSeekOther b s
  | .lLeadStart => Sys2Proof.Machine.execLLeadStart s
  | .lLeadEsc => Sys2Proof.Machine.execLLeadEsc s
  | .lLeadData b => Sys2Proof.Machine.execLLeadData b s
  | .lRunStart => Sys2Proof.Machine.execLRunStart s
  | .lRunEsc => Sys2Proof.Machine.execLRunEsc s
  | .lRunData b => Sys2Proof.Machine.execLRunData b s
  | .lLeadescOk c => Sys2Proof.Machine.execLLeadescOk c s
  | .lLeadescBad b => Sys2Proof.Machine.execLLeadescBad b s
  | .lRunesc b => Sys2Proof.Machine.execLRunesc b s
  | .lEos => Sys2Proof.Machine.execLEos s
  | .strobeH p => Sys2Proof.Machine.execStrobeH p s
  | .setled p => Sys2Proof.Machine.execSetled p s
  | .auth p => Sys2Proof.Machine.execAuth p s
  | .hrsetled p => Sys2Proof.Machine.execHrsetled p s
  | .strobeB p => Sys2Proof.Machine.execStrobeB p s
  | .setch a p => Sys2Proof.Machine.execSetch a p s

end Sys2Proof.Machine
end

