-- ==== Sys2Proof/Machine/Fetch.lean ====
section
/-! DEFINITION. How a step takes its input event and what it records around the meaning (10_state.md R20 to R22, R25),
and how a word of the opcode table is placed where the next step takes it. -/

namespace Sys2Proof.Machine

/-- The transition row that applies to the state and an input event. -/
def State.rowFor (s : State) (ev : InputEvent) : Instr := transitionRow s.mode s.sync s.buf.isEmpty ev

/-- What an output adds to the observation (R22): nothing for `None`. -/
def observation (pos : Nat) (o : Output) : List (Nat × Output) :=
  match o with
  | .none => []
  | .cmd c => [(pos, .cmd c)]
  | .err e l => [(pos, .err e l)]

/-- The event has been consumed (R33): what is left of the input, its index, the observation. -/
def State.retire (s : State) (rest : List InputEvent) : State :=
  { s with input := rest, pos := s.pos + 1, trace := s.trace ++ observation s.pos s.out }

/-- No event is waiting: nothing changes (R20), and no event is held or repeated on the output (93 U6). -/
def State.idle (s : State) : State := s.quiet

/-- A frame with lead byte `a` and a payload of zeros, taken up to its last raw byte, so that the next step dispatches
it. In `DELIM` mode that byte is the closing `START`; in `LENGTH` mode it is the last byte of the run, or the lead
byte of an empty frame. -/
def State.stageFrame (s : State) (a : Byte) : State :=
  match s.mode, (Wire.fixedLength a).getD 0 with
  | .delim, n =>
    { s.clearFrame with sync := .inFrame, buf := a :: List.replicate n 0#8, input := .byte Wire.start :: s.input }
  | .length, 0 => { s.clearFrame with sync := .inFrame, input := .byte a :: s.input }
  | .length, n + 1 =>
    { s.clearFrame with
        sync := .inFrame, buf := a :: List.replicate n 0#8, rem := 1, input := .byte 0#8 :: s.input }

/-- Place a word of the opcode table so that the next step runs it (log 4): a symbol or the end of the stream is the
next input event; of an escape sequence the first byte has been taken inside a frame and the code is the next event;
a frame is complete but for its last raw byte. -/
def State.stage (s : State) (nbits w : Nat) : State :=
  match nbits with
  | 0 => { s with input := .eos :: s.input }
  | 8 =>
    if isFrameWord (BitVec.ofNat 8 w) then s.stageFrame (BitVec.ofNat 8 w)
    else { s with input := .byte (BitVec.ofNat 8 w) :: s.input }
  | 16 =>
    if BitVec.ofNat 8 (w / 256) = Wire.escape then
      { s with sync := .afterEscape, input := .byte (BitVec.ofNat 8 w) :: s.input }
    else { s with input := .byte (BitVec.ofNat 8 (w / 256)) :: .byte (BitVec.ofNat 8 w) :: s.input }
  | _ => s

end Sys2Proof.Machine
end

