-- ==== Sys2Proof/Machine/Step.lean ====
section
/-! DEFINITION. One step (10_state.md R22): the next input event selects its transition row, the row's meaning is
executed, and the event is recorded as consumed. -/

namespace Sys2Proof.Machine

/-- One step (R22). With no event waiting the machine idles (R20). -/
def step (s : State) : Host.Outcome State Fault Refusal :=
  match s.input with
  | [] => .next s.idle
  | ev :: rest =>
    match exec (s.rowFor ev) s with
    | .next t => .next (t.retire rest)
    | .fault r => .fault r
    | .refused r => .refused r

/-- The word of an opcode-table row, placed where the next step takes it (log 4). -/
def State.withFetchWord (s : State) (nbits w : Nat) : State := s.stage nbits w

end Sys2Proof.Machine
end

