-- ==== Sys2Proof/Machine/Realisation.lean ====
section
/-! DEFINITION. The finite realisation of the payload buffer (20_memory.md R37): `BUF_CAP` cells and a length counter
that saturates at `BUF_CAP + 1`. No part of the abstract machine, whose buffer is unbounded (D18): statements compare
the two. -/

namespace Sys2Proof.Machine

/-- What a buffer of `cap` cells keeps of a byte sequence: the first `cap` bytes, and that there were more. The cell
after the last stands for the saturated count, so the length of the result is the count; its value is no stored
byte. -/
def keepCells (cap : Nat) (buf : List Byte) : List Byte :=
  if buf.length ≤ cap then buf else buf.take cap ++ [0#8]

/-- One step of the realisation. -/
def finiteStep (cap : Nat) (s : State) : Host.Outcome State Fault Refusal :=
  match step s with
  | .next t => .next { t with buf := keepCells cap t.buf }
  | .fault r => .fault r
  | .refused r => .refused r

/-- `k` steps of the realisation. -/
def finiteRun (cap : Nat) : Nat → State → Host.Outcome State Fault Refusal
  | 0, s => .next s
  | k + 1, s =>
    match finiteStep cap s with
    | .next t => finiteRun cap k t
    | .fault r => .fault r
    | .refused r => .refused r

end Sys2Proof.Machine
end

