-- ==== Sys2Proof/Machine/Reference.lean ====
section
/-! DEFINITION. The batch procedure of length-aware decoding (41_framing_length_mode.md R91), the normative reference
that the byte-at-a-time rules realise (R92). No part of the machine: statements compare the two. -/

namespace Sys2Proof.Reference

/-- `take(k)` (R91): the next `k` raw bytes and what is left; none if fewer remain. -/
def takeRaw (k : Nat) (stream : List Byte) : Option (List Byte × List Byte) :=
  if k ≤ stream.length then some (stream.take k, stream.drop k) else none

/-- The number of `ESCAPE` bytes (step 3). -/
def escapes (bs : List Byte) : Nat := bs.countP (fun b => b == Wire.escape)

/-- Step 3: as long as the last batch holds escapes, read as many more raw bytes. Every round but the last takes a
byte from the stream, so a bound of one more than its length is enough. -/
def extendRun : Nat → List Byte → List Byte → List Byte → Option (List Byte × List Byte)
  | 0, _, _, _ => none
  | bound + 1, batch, run, stream =>
    if escapes batch = 0 then some (run, stream)
    else
      match takeRaw (escapes batch) stream with
      | none => none
      | some (more, rest) => extendRun bound more (run ++ more) rest

/-- Steps 2 and 3: the raw run of a frame, and the stream after it. -/
def readRun (expected : Nat) (stream : List Byte) : Option (List Byte × List Byte) :=
  match takeRaw expected stream with
  | none => none
  | some (run, rest) => extendRun (stream.length + 1) run run rest

/-- Put a byte before an unescaped rest. -/
def prepend (v : Byte) (rest : Option (List Byte)) : Option (List Byte) :=
  match rest with
  | some vs => some (v :: vs)
  | none => none

/-- Step 5: unescape the run; none where an escape is invalid. -/
def unescapeRun : List Byte → Option (List Byte)
  | [] => some []
  | [b] => if b = Wire.escape then none else some [b]
  | b :: c :: rest =>
    if b = Wire.escape then (if Wire.isCode c then prepend (unesc c) (unescapeRun rest) else none)
    else prepend b (unescapeRun (c :: rest))

/-- What the procedure does with one frame. -/
inductive BatchOutcome where
  /-- The stream ends first: the partial frame is discarded without error (R91, R106). -/
  | cutShort
  /-- The output, the state in which the next byte is taken, the raw run read and the stream after it. -/
  | done (out : Output) (next : Sync) (run rest : List Byte)
deriving DecidableEq, Repr

/-- The procedure (R91), for a frame whose unescaped lead byte is `a`, on the stream just after it. -/
def batch (ml : Memory) (a : Byte) (stream : List Byte) : BatchOutcome :=
  match expectedLen ml a with
  | none => .done (.err .unknownAddress (some a)) .seekingStart [] stream
  | some expected =>
    match readRun expected stream with
    | none => .cutShort
    | some (run, rest) =>
      if Wire.start ∈ run then .done (.err .unexpectedSync (some a)) .seekingStart run rest
      else
        match unescapeRun run with
        | none => .done (.err .pvEscape (some a)) .seekingStart run rest
        | some payload => .done (Machine.dispatch ml ⟨a, payload⟩) .inFrame run rest

end Sys2Proof.Reference
end

