-- ==== Sys2Proof/Machine/Encoder.lean ====
section
/-! DEFINITION. The encoder reference functions (43_encoder_reference.md R140 to R148) and the assembler built on them
(30_encoding.md R65, R66). They are software of the transmitting side, no part of the machine (00_scope.md R3): they
define the streams that statements about the machine speak of. -/

namespace Sys2Proof

/-- The encoder's error (R144, R160 code 5): caller-fatal, no bytes are written, and never an output of the VFD. -/
inductive EncodeError where
  | configuration
deriving DecidableEq, Repr

/-- `EncodeFrame` (R140): the corrected encoder (R147, 90_conflicts.md C8). -/
def encodeFrame (f : Frame) : List Byte := frameBytes f.address f.payload

/-- `FrameOf` (R142 to R146). -/
def frameOf : Command → Frame
  | .strobe lead => ⟨lead, []⟩
  | .setLed led r g b a => ⟨Wire.opSetLed, [hiByte led, loByte led, r, g, b, a]⟩
  | .authenticate token => ⟨Wire.opAuth, token⟩
  | .highResSetLed led r g b a =>
    ⟨Wire.opHighRes,
      [hiByte led, loByte led, hiByte r, loByte r, hiByte g, loByte g, hiByte b, loByte b, hiByte a, loByte a]⟩
  | .setChannels a values => ⟨a, values⟩

/-- `EncodeCommand` (R141). -/
def encodeCommand (c : Command) : List Byte := encodeFrame (frameOf c)

/-- An `Authenticate` from the caller's token (R66, R144): zero-padded on the right, rejected when too long. -/
def authenticateCommand (t : List Byte) : Except EncodeError Command :=
  if t.length ≤ Wire.tokenLength then .ok (.authenticate (t ++ List.replicate (Wire.tokenLength - t.length) 0#8))
  else .error .configuration

/-- The commands that are representable for a configuration (R148). -/
def representable (ml : Memory) : Command → Bool
  | .strobe lead => lead == Wire.strobeHigh || lead == Wire.strobeBus
  | .setLed .. => true
  | .authenticate token => token.length == Wire.tokenLength
  | .highResSetLed .. => true
  | .setChannels a values => Wire.isModule a && ml.read a == some values.length

/-- One line of the assembly syntax (R65): a command, `AUTH` with at most 16 token bytes (R66), or `.raw` bytes. -/
inductive AsmLine where
  | command (c : Command)
  | authToken (t : List Byte)
  | raw (bytes : List Byte)
deriving DecidableEq, Repr

/-- The bytes a line assembles to (R65, R66). -/
def assemble : AsmLine → Except EncodeError (List Byte)
  | .command c => .ok (encodeCommand c)
  | .authToken t =>
    match authenticateCommand t with
    | .ok c => .ok (encodeCommand c)
    | .error e => .error e
  | .raw bytes => .ok bytes

end Sys2Proof
end

