-- ==== Sys2Proof/Safety.lean ====
section
/-! DEFINITION. What claims speak of: the invariants of reachable states (10_state.md R24), the configurations the spec
calls well-formed (R18), sessions and runs (70_reset_and_hazards.md R190, R192). -/

namespace Sys2Proof.Machine

/-- `ExpectedLen(buf[0])`, and 0 where there is no lead byte or no number. -/
def State.leadLength (s : State) : Nat :=
  match s.buf with
  | [] => 0
  | a :: _ => (expectedLen s.ml a).getD 0

/-- The counter and the sticky flags hold their reset values. -/
abbrev State.countersClear (s : State) : Prop := s.rem = 0 ∧ s.syncSeen = false ∧ s.badEsc = false

/-- The invariants of reachable states, item by item (R24). -/
structure State.Invariant (s : State) : Prop where
  /-- Item 1. -/
  delim_clear : s.mode = .delim → s.countersClear
  /-- Item 2. -/
  seeking_empty : s.sync = .seekingStart → s.buf = [] ∧ s.countersClear
  /-- Item 3. -/
  lead_clear : s.mode = .length → s.buf = [] → s.countersClear
  /-- Item 4. -/
  run_open : s.mode = .length → s.buf ≠ [] →
    s.sync ≠ .seekingStart ∧ 1 ≤ s.rem ∧ 1 ≤ s.leadLength ∧ s.rem ≤ s.leadLength
  /-- Item 5. -/
  run_count : s.mode = .length → s.buf ≠ [] → s.badEsc = false → s.buf.length - 1 + s.rem = s.leadLength

/-- A well-formed configuration (R18, R196): the table has its canonical form and no entry for the strobe address. -/
def cfgWellFormed (ml : Memory) : Bool := ml.wf && ml.read Wire.strobeBus == none

/-- No module has an address that a fixed dispatch row claims (R197): advice to whoever builds the configuration. -/
def cfgUnshadowed (ml : Memory) : Bool := ml.all (fun e => Wire.isModule (BitVec.ofNat 8 e.1))

/-- The bytes the host delivers. -/
def bytesIn (bs : List Byte) : List InputEvent := bs.map .byte

/-- The start of a session (R190 to R192): reset under a configuration, with a list of bytes to come. -/
def session (mode : Mode) (ml : Memory) (bs : List Byte) : State :=
  { State.reset.hostReset mode ml with input := bytesIn bs }

/-- `k` steps of the machine lead from `s` to `t`. -/
def State.runsTo (s : State) (k : Nat) (t : State) : Prop := Host.Core.run Sys2Proof.core k s = .next t

/-- The machine consumes all its input and is then in `t` (R192). -/
def State.endsIn (s t : State) : Prop := s.runsTo s.input.length t

end Sys2Proof.Machine
end

