-- ==== Sys2Proof/Certificates/Slice0/Obligations.lean ====
section
/-! DEFINITION. The statements for the provers. Byte values are written as the spec writes them, not by the model's
names for them, so that a wrong constant would show. -/

open Sys2Proof Sys2Proof.Machine

-- Reset and end of stream

/-- R23, R190: a reset puts the five registers at their reset values, produces no event, presents the new
configuration and touches nothing of the input side. The machine's own reset state is such a state. -/
def Obligations.ResetPutsRegistersAtResetValues : Prop :=
  (∀ (s : State) (m : Mode) (ml : Memory),
    s.hostReset m ml =
      { s with sync := .seekingStart, buf := [], rem := 0, syncSeen := false, badEsc := false, out := .none,
               mode := m, ml := ml }) ∧
  State.reset.sync = .seekingStart ∧ State.reset.buf = [] ∧ State.reset.rem = 0 ∧
  State.reset.syncSeen = false ∧ State.reset.badEsc = false ∧ State.reset.out = .none

/-- R81, R106: the end of the stream, in any state of either mode, returns every register to its reset value and
reports nothing. -/
def Obligations.EndOfStreamRowsResult : Prop :=
  ∀ s : State,
    (s.mode = .delim → exec .dEos s =
      .next { s with sync := .seekingStart, buf := [], rem := 0, syncSeen := false, badEsc := false, out := .none }) ∧
    (s.mode = .length → exec .lEos s =
      .next { s with sync := .seekingStart, buf := [], rem := 0, syncSeen := false, badEsc := false, out := .none })

/-- R190, R81, R106: the state after `Eos` is the state after a reset under the same configuration, but for the event
having been consumed. -/
def Obligations.EndOfStreamStepEqualsReset : Prop :=
  ∀ (s : State) (rest : List InputEvent), s.input = .eos :: rest →
    step s = .next { s.hostReset s.mode s.ml with input := rest, pos := s.pos + 1 }

-- Delimiter-terminated mode, row by row

/-- R71, R72. -/
def Obligations.DelimSeekRowsResult : Prop :=
  ∀ s : State, s.mode = .delim → s.sync = .seekingStart →
    exec .dSeekStart s = .next { s with sync := .inFrame, buf := [], out := .none } ∧
    ∀ b : Byte, b ≠ 0x55#8 → exec (.dSeekOther b) s = .next { s with out := .none }

/-- R73, R75, R76. -/
def Obligations.DelimInFrameRowsResult : Prop :=
  ∀ s : State, s.mode = .delim → s.sync = .inFrame →
    exec .dInEsc s = .next { s with sync := .afterEscape, out := .none } ∧
    (s.buf = [] → exec .dInStartEmpty s = .next { s with out := .none }) ∧
    ∀ b : Byte, b ≠ 0x54#8 → b ≠ 0x55#8 → exec (.dInData b) s = .next { s with buf := s.buf ++ [b], out := .none }

/-- R74: the closing `START` dispatches the buffer, clears it and stays in the frame, whatever the dispatch says. -/
def Obligations.DelimClosingStartDispatches : Prop :=
  ∀ (s : State) (a : Byte) (p : List Byte), s.mode = .delim → s.sync = .inFrame → s.buf = a :: p →
    exec .dInStartFrame s = .next { s with buf := [], out := dispatch s.ml ⟨a, p⟩ }

/-- R77, R78. -/
def Obligations.DelimEscapeCodesAppendLiteral : Prop :=
  ∀ s : State, s.mode = .delim → s.sync = .afterEscape →
    exec .dAeCode0 s = .next { s with buf := s.buf ++ [0x54#8], sync := .inFrame, out := .none } ∧
    exec .dAeCode1 s = .next { s with buf := s.buf ++ [0x55#8], sync := .inFrame, out := .none }

/-- R79: any other byte after `ESCAPE`, `54` and `55` among them, is a violation and is consumed. -/
def Obligations.DelimBadEscapeResync : Prop :=
  ∀ (s : State) (b : Byte), s.mode = .delim → s.sync = .afterEscape → b ≠ 0x00#8 → b ≠ 0x01#8 →
    exec (.dAeBad b) s =
      .next { s with sync := .seekingStart, buf := [], rem := 0, syncSeen := false, badEsc := false,
                     out := .err .pvEscape s.buf.head? }

/-- R82 items 1 and 3 (inferences of the spec's own): in `DELIM` mode a command or a dispatch error comes only with a `55` taken in a frame, an
escape error only with a byte after an `ESCAPE`, and an unexpected sync never. -/
def Obligations.DelimOutputsComeOnlyFromTheirEvents : Prop :=
  ∀ s t : State, s.mode = .delim → step s = .next t →
    (∀ c, t.out = .cmd c → s.sync = .inFrame ∧ s.input.head? = some (.byte 0x55#8)) ∧
    (∀ l, t.out = .err .pvLength l → s.sync = .inFrame ∧ s.input.head? = some (.byte 0x55#8)) ∧
    (∀ l, t.out = .err .unknownAddress l → s.sync = .inFrame ∧ s.input.head? = some (.byte 0x55#8)) ∧
    (∀ l, t.out = .err .pvEscape l → s.sync = .afterEscape) ∧
    (∀ l, t.out ≠ .err .unexpectedSync l)

-- Length-aware mode, row by row

/-- R93, R94. -/
def Obligations.LengthSeekRowsResult : Prop :=
  ∀ s : State, s.mode = .length → s.sync = .seekingStart →
    exec .lSeekStart s =
      .next { s with sync := .inFrame, buf := [], rem := 0, syncSeen := false, badEsc := false, out := .none } ∧
    ∀ b : Byte, b ≠ 0x55#8 → exec (.lSeekOther b) s = .next { s with out := .none }

/-- R95, R96. -/
def Obligations.LengthLeadIdleAndEscape : Prop :=
  ∀ s : State, s.mode = .length → s.sync = .inFrame → s.buf = [] →
    exec .lLeadStart s = .next { s with out := .none } ∧
    exec .lLeadEsc s = .next { s with sync := .afterEscape, out := .none }

/-- R97, R98, R102: the three cases of a lead byte, read raw or as an escape sequence. A zero-length frame is a strobe
for the two strobe values and an empty `SetChannels` for a module. -/
def Obligations.LengthLeadByteAccepted : Prop :=
  ∀ (s : State) (i : Instr) (a : Byte), s.mode = .length → s.buf = [] →
    ((s.sync = .inFrame ∧ i = .lLeadData a ∧ a ≠ 0x54#8 ∧ a ≠ 0x55#8) ∨
     (s.sync = .afterEscape ∧ i = .lLeadescOk 0x00#8 ∧ a = 0x54#8) ∨
     (s.sync = .afterEscape ∧ i = .lLeadescOk 0x01#8 ∧ a = 0x55#8)) →
    (expectedLen s.ml a = none →
      exec i s = .next { s with sync := .seekingStart, buf := [], rem := 0, syncSeen := false, badEsc := false,
                                out := .err .unknownAddress (some a) }) ∧
    (expectedLen s.ml a = some 0 →
      exec i s = .next { s with sync := .inFrame, buf := [], rem := 0, syncSeen := false, badEsc := false,
                                out := .cmd (if a = 0xFF#8 ∨ a = 0xFE#8 then .strobe a else .setChannels a []) }) ∧
    (∀ e, expectedLen s.ml a = some (e + 1) →
      exec i s = .next { s with sync := .inFrame, buf := [a], rem := e + 1, syncSeen := false, badEsc := false,
                                out := .none })

/-- R103: at the lead position a bad escape code is reported at once, with no lead byte. -/
def Obligations.LengthLeadBadEscapeResync : Prop :=
  ∀ (s : State) (b : Byte), s.mode = .length → s.sync = .afterEscape → s.buf = [] → b ≠ 0x00#8 → b ≠ 0x01#8 →
    exec (.lLeadescBad b) s =
      .next { s with sync := .seekingStart, buf := [], rem := 0, syncSeen := false, badEsc := false,
                     out := .err .pvEscape none }

/-- R99, R100, R101, with the ending of R105 written out: the raw bytes of a run that do not follow an `ESCAPE`. The
run goes on while the counter does not reach 0. Its last byte completes it: a `START` anywhere in the run wins over a
bad escape (R167), and a clean run is dispatched with the byte it ends in. -/
def Obligations.LengthRunRowsResult : Prop :=
  ∀ (s : State) (a : Byte) (p : List Byte), s.mode = .length → s.sync = .inFrame → s.buf = a :: p →
    exec .lRunEsc s = .next { s with sync := .afterEscape, out := .none } ∧
    (s.rem - 1 ≠ 0 → exec .lRunStart s =
      .next { s with buf := a :: p ++ [0x55#8], rem := s.rem - 1, syncSeen := true, out := .none }) ∧
    (s.rem - 1 = 0 → exec .lRunStart s =
      .next { s with sync := .seekingStart, buf := [], rem := 0, syncSeen := false, badEsc := false,
                     out := .err .unexpectedSync (some a) }) ∧
    ∀ b : Byte, b ≠ 0x54#8 → b ≠ 0x55#8 →
      (s.rem - 1 ≠ 0 → exec (.lRunData b) s =
        .next { s with buf := a :: p ++ [b], rem := s.rem - 1, out := .none }) ∧
      (s.rem - 1 = 0 → s.syncSeen = true → exec (.lRunData b) s =
        .next { s with sync := .seekingStart, buf := [], rem := 0, syncSeen := false, badEsc := false,
                       out := .err .unexpectedSync (some a) }) ∧
      (s.rem - 1 = 0 → s.syncSeen = false → s.badEsc = true → exec (.lRunData b) s =
        .next { s with sync := .seekingStart, buf := [], rem := 0, syncSeen := false, badEsc := false,
                       out := .err .pvEscape (some a) }) ∧
      (s.rem - 1 = 0 → s.syncSeen = false → s.badEsc = false → exec (.lRunData b) s =
        .next { s with sync := .inFrame, buf := [], rem := 0, out := dispatch s.ml ⟨a, p ++ [b]⟩ })

/-- R104, with the ending of R105 written out: the second byte of a pair inside a run. Its five cases where the run
goes on, and which error or command comes where the byte brings the counter to 0 (a byte `54` takes no unit). -/
def Obligations.LengthRunEscapeCodeResult : Prop :=
  ∀ (s : State) (a : Byte) (p : List Byte) (b : Byte), s.mode = .length → s.sync = .afterEscape → s.buf = a :: p →
    (b = 0x54#8 → s.rem ≠ 0 →
      exec (.lRunesc b) s = .next { s with sync := .inFrame, badEsc := true, out := .none }) ∧
    (s.rem - 1 ≠ 0 →
      (b = 0x00#8 → exec (.lRunesc b) s =
        .next { s with sync := .inFrame, buf := a :: p ++ [0x54#8], rem := s.rem - 1, out := .none }) ∧
      (b = 0x01#8 → exec (.lRunesc b) s =
        .next { s with sync := .inFrame, buf := a :: p ++ [0x55#8], rem := s.rem - 1, out := .none }) ∧
      (b = 0x55#8 → exec (.lRunesc b) s =
        .next { s with sync := .inFrame, badEsc := true, syncSeen := true, rem := s.rem - 1, out := .none }) ∧
      (b ≠ 0x00#8 → b ≠ 0x01#8 → b ≠ 0x54#8 → b ≠ 0x55#8 → exec (.lRunesc b) s =
        .next { s with sync := .inFrame, badEsc := true, rem := s.rem - 1, out := .none })) ∧
    ((if b = 0x54#8 then s.rem else s.rem - 1) = 0 →
      ((s.syncSeen = true ∨ b = 0x55#8) → exec (.lRunesc b) s =
        .next { s with sync := .seekingStart, buf := [], rem := 0, syncSeen := false, badEsc := false,
                       out := .err .unexpectedSync (some a) }) ∧
      (s.syncSeen = false → b ≠ 0x55#8 → (s.badEsc = true ∨ (b ≠ 0x00#8 ∧ b ≠ 0x01#8)) → exec (.lRunesc b) s =
        .next { s with sync := .seekingStart, buf := [], rem := 0, syncSeen := false, badEsc := false,
                       out := .err .pvEscape (some a) }) ∧
      (s.syncSeen = false → s.badEsc = false → b = 0x00#8 → exec (.lRunesc b) s =
        .next { s with sync := .inFrame, buf := [], rem := 0, out := dispatch s.ml ⟨a, p ++ [0x54#8]⟩ }) ∧
      (s.syncSeen = false → s.badEsc = false → b = 0x01#8 → exec (.lRunesc b) s =
        .next { s with sync := .inFrame, buf := [], rem := 0, out := dispatch s.ml ⟨a, p ++ [0x55#8]⟩ }))

/-- R105 ("always a `Cmd`", an inference the spec marks as its own): where a byte completes a run, from any state that
meets the invariants, the outcome is the command of the frame with one more payload byte, at the lead position, or one
of the two run errors, seeking. A length or address error never comes here. -/
def Obligations.CompletedRunIsCommandOrRunError : Prop :=
  ∀ (s t : State) (a b : Byte) (p : List Byte) (rest : List InputEvent), s.Invariant → s.mode = .length →
    s.buf = a :: p → s.input = .byte b :: rest → step s = .next t → t.buf = [] →
    (t.sync = .inFrame ∧ ∃ v : Byte, t.out = .cmd (commandOf ⟨a, p ++ [v]⟩) ∧
      expectedLen s.ml a = some (p.length + 1)) ∨
    (t.sync = .seekingStart ∧ (t.out = .err .unexpectedSync (some a) ∨ t.out = .err .pvEscape (some a)))

/-- R109 item 3 (an inference of the spec's own): `ESCAPE` bytes alone keep a run open for ever, silently. -/
def Obligations.EscapesAloneKeepRunOpen : Prop :=
  ∀ (s : State) (n : Nat), s.Invariant → s.mode = .length → s.buf ≠ [] →
    s.input = bytesIn (List.replicate n 0x54#8) →
    ∃ t, s.endsIn t ∧ t.trace = s.trace ∧ t.buf = s.buf ∧ t.rem = s.rem

-- Symbols and escape sequences

/-- R50, R80, R107 (that a symbol class is an instruction is log 7's reading): each symbol class completes in every state, with the effect of the one transition row that the
mode and the state select for its byte. -/
def Obligations.SymbolClassesRunTheirTransition : Prop :=
  ∀ s : State,
    (∃ t, exec .start s = .next t ∧ exec (s.rowFor (.byte 0x55#8)) s = .next t) ∧
    (∃ t, exec .escape s = .next t ∧ exec (s.rowFor (.byte 0x54#8)) s = .next t) ∧
    (∃ t, exec .code0 s = .next t ∧ exec (s.rowFor (.byte 0x00#8)) s = .next t) ∧
    (∃ t, exec .code1 s = .next t ∧ exec (s.rowFor (.byte 0x01#8)) s = .next t) ∧
    ∀ b : Byte, b ≠ 0x00#8 → b ≠ 0x01#8 → b ≠ 0x54#8 → b ≠ 0x55#8 →
      ∃ t, exec (.data b) s = .next t ∧ exec (s.rowFor (.byte b)) s = .next t

/-- R52, R53, R161: inside a `DELIM` frame the two valid escape sequences stand for the values 0x54 and 0x55, and every
other one is reported at once. -/
def Obligations.DelimEscapeSequencesDeliver : Prop :=
  ∀ s : State, s.mode = .delim → s.sync = .inFrame →
    exec .esc54 s = .next { s with buf := s.buf ++ [0x54#8], out := .none } ∧
    exec .esc55 s = .next { s with buf := s.buf ++ [0x55#8], out := .none } ∧
    ∀ c : Byte, c ≠ 0x00#8 → c ≠ 0x01#8 →
      exec (.escBad c) s =
        .next { s with sync := .seekingStart, buf := [], rem := 0, syncSeen := false, badEsc := false,
                       out := .err .pvEscape s.buf.head? }

/-- R52, R104, R161: inside a `LENGTH`-mode run that goes on, a valid escape sequence takes one unit of the counter and
delivers its value, and an invalid one is remembered, `54 54` without taking a unit. -/
def Obligations.LengthEscapeSequencesDeliver : Prop :=
  ∀ s : State, s.mode = .length → s.sync = .inFrame → s.buf ≠ [] → s.rem - 1 ≠ 0 →
    exec .esc54 s = .next { s with buf := s.buf ++ [0x54#8], rem := s.rem - 1, out := .none } ∧
    exec .esc55 s = .next { s with buf := s.buf ++ [0x55#8], rem := s.rem - 1, out := .none } ∧
    exec (.escBad 0x54#8) s = .next { s with badEsc := true, out := .none } ∧
    exec (.escBad 0x55#8) s = .next { s with badEsc := true, syncSeen := true, rem := s.rem - 1, out := .none } ∧
    ∀ c : Byte, c ≠ 0x00#8 → c ≠ 0x01#8 → c ≠ 0x54#8 → c ≠ 0x55#8 →
      exec (.escBad c) s = .next { s with badEsc := true, rem := s.rem - 1, out := .none }

/-- R22, R52: inside a frame of either mode an escape sequence has the effect of the two steps that take its two
bytes, the first of which is silent. -/
def Obligations.EscapeSequenceIsItsTwoSteps : Prop :=
  ∀ (s : State) (c : Byte) (rest : List InputEvent),
    s.sync = .inFrame → s.input = .byte 0x54#8 :: .byte c :: rest →
    ∃ t, exec (escapePair c) s = .next t ∧
      s.runsTo 2 { t with input := rest, pos := s.pos + 2, trace := s.trace ++ observation (s.pos + 1) t.out }

-- Dispatch

/-- R90. -/
def Obligations.ExpectedLengthOfLeadByte : Prop :=
  ∀ (ml : Memory) (a : Byte),
    (a = 0xFF#8 → expectedLen ml a = some 0) ∧ (a = 0x01#8 → expectedLen ml a = some 6) ∧
    (a = 0x02#8 → expectedLen ml a = some 16) ∧ (a = 0x03#8 → expectedLen ml a = some 10) ∧
    (a = 0xFE#8 → expectedLen ml a = some 0) ∧
    (a ≠ 0xFF#8 → a ≠ 0x01#8 → a ≠ 0x02#8 → a ≠ 0x03#8 → a ≠ 0xFE#8 → expectedLen ml a = ml.read a)

/-- R121, R125: a strobe frame writes no register; with an empty payload it is a strobe that keeps its lead byte, with
any other a length error. -/
def Obligations.StrobeFramesResult : Prop :=
  ∀ (s : State) (p : List Byte),
    exec (.strobeH p) s =
      .next { s with out := if p = [] then .cmd (.strobe 0xFF#8) else .err .pvLength (some 0xFF#8) } ∧
    exec (.strobeB p) s =
      .next { s with out := if p = [] then .cmd (.strobe 0xFE#8) else .err .pvLength (some 0xFE#8) }

/-- R55, R122: `SETLED` with its six bytes, the LED number big-endian, and with any other number of bytes. -/
def Obligations.SetLedFrameResult : Prop :=
  ∀ s : State,
    (∀ h l r g b a : Byte, exec (.setled [h, l, r, g, b, a]) s =
      .next { s with out := .cmd (.setLed (BitVec.ofNat 16 (256 * h.toNat + l.toNat)) r g b a) }) ∧
    (∀ p : List Byte, p.length ≠ 6 → exec (.setled p) s = .next { s with out := .err .pvLength (some 0x01#8) })

/-- R56, R123, R180: `AUTH` delivers its sixteen bytes in arrival order and changes nothing else. -/
def Obligations.AuthFrameResult : Prop :=
  ∀ (s : State) (p : List Byte),
    exec (.auth p) s =
      .next { s with out := if p.length = 16 then .cmd (.authenticate p) else .err .pvLength (some 0x02#8) }

/-- R57, R124: `HRSETLED` with its ten bytes, five big-endian fields, and with any other number of bytes. -/
def Obligations.HighResFrameResult : Prop :=
  ∀ s : State,
    (∀ h l rh rl gh gl bh bl ah al : Byte, exec (.hrsetled [h, l, rh, rl, gh, gl, bh, bl, ah, al]) s =
      .next { s with out := .cmd (.highResSetLed (BitVec.ofNat 16 (256 * h.toNat + l.toNat))
        (BitVec.ofNat 16 (256 * rh.toNat + rl.toNat)) (BitVec.ofNat 16 (256 * gh.toNat + gl.toNat))
        (BitVec.ofNat 16 (256 * bh.toNat + bl.toNat)) (BitVec.ofNat 16 (256 * ah.toNat + al.toNat))) }) ∧
    (∀ p : List Byte, p.length ≠ 10 → exec (.hrsetled p) s = .next { s with out := .err .pvLength (some 0x03#8) })

/-- R59, R126, R127, R128: `SETCH` for a module address, by what the table says of it. -/
def Obligations.SetChannelsFrameResult : Prop :=
  ∀ (s : State) (a : Byte) (p : List Byte),
    a ≠ 0xFF#8 → a ≠ 0x01#8 → a ≠ 0x02#8 → a ≠ 0x03#8 → a ≠ 0xFE#8 →
    (s.ml.read a = some p.length → exec (.setch a p) s = .next { s with out := .cmd (.setChannels a p) }) ∧
    (s.ml.read a = none → exec (.setch a p) s = .next { s with out := .err .unknownAddress (some a) }) ∧
    (∀ n, s.ml.read a = some n → n ≠ p.length → exec (.setch a p) s = .next { s with out := .err .pvLength (some a) })

/-- R61, R120: the multiplexer runs exactly the frame row of the lead byte: what `Dispatch` returns is the output of
that row's instruction, for every frame. -/
def Obligations.DispatchRunsTheFrameRow : Prop :=
  ∀ (s : State) (a : Byte) (p : List Byte), exec (frameRow a p) s = .next { s with out := dispatch s.ml ⟨a, p⟩ }

/-- R131 (an inference of the spec's own): the four shadowed lead bytes are never a `SetChannels`, whatever the table holds, and no other lead byte but
`FE` is anything else. -/
def Obligations.ShadowedAddressesNeverSetChannels : Prop :=
  ∀ (ml : Memory) (a : Byte) (p : List Byte) (c : Command), dispatch ml ⟨a, p⟩ = .cmd c →
    ((∃ v, c = .setChannels a v) ↔ a ≠ 0x01#8 ∧ a ≠ 0x02#8 ∧ a ≠ 0x03#8 ∧ a ≠ 0xFF#8 ∧ a ≠ 0xFE#8) ∧
    ((∃ led r g b w, c = .setLed led r g b w) ↔ a = 0x01#8) ∧
    ((∃ token, c = .authenticate token) ↔ a = 0x02#8) ∧
    ((∃ led r g b w, c = .highResSetLed led r g b w) ↔ a = 0x03#8)

/-- R21, R54: the row select of a delivered command is the dispatch row of its frame's lead byte. -/
def Obligations.RowSelectFollowsTheLeadByte : Prop :=
  ∀ (ml : Memory) (a : Byte) (p : List Byte) (c : Command), dispatch ml ⟨a, p⟩ = .cmd c →
    c.row = if a = 0xFF#8 then 0 else if a = 0x01#8 then 1 else if a = 0x02#8 then 2 else if a = 0x03#8 then 3
      else if a = 0xFE#8 then 4 else 5

/-- R30, R60, R129: big-endian pairing is 256 times the first byte plus the second, and loses nothing. -/
def Obligations.BigEndianPairing : Prop :=
  ∀ h l : Byte, (word16 h l).toNat = 256 * h.toNat + l.toNat ∧ hiByte (word16 h l) = h ∧ loByte (word16 h l) = l

/-- R19, R148: a delivered command carries all it takes to write its frame again, and is representable. -/
def Obligations.DeliveredCommandRebuildsItsFrame : Prop :=
  ∀ (ml : Memory) (f : Frame) (c : Command), dispatch ml f = .cmd c → frameOf c = f ∧ representable ml c = true

/-- R148: a representable command dispatches back to itself. -/
def Obligations.RepresentableCommandDispatchesBack : Prop :=
  ∀ (ml : Memory) (c : Command), representable ml c = true → dispatch ml (frameOf c) = .cmd c

/-- R144: a token of at most 16 bytes is padded on the right with zeros to 16, and the frame has lead byte 02 and the
padded token as its payload; a longer one is the caller's error. -/
def Obligations.TokenPaddedToSixteenBytes : Prop :=
  ∀ t : List Byte,
    (t.length ≤ 16 → ∃ c, authenticateCommand t = .ok c ∧
      frameOf c = ⟨0x02#8, t ++ List.replicate (16 - t.length) 0x00#8⟩ ∧ (frameOf c).payload.length = 16) ∧
    (16 < t.length → authenticateCommand t = .error .configuration)

-- Reading instructions

/-- Words written out from the spec's tables (R50, R52, R54, R66 and vector EN2) decode to the instructions they
stand for. -/
def Obligations.WrittenOutWordsDecode : Prop :=
  decode .symbol [.byte 0x55#8] = .ok .start ∧ decode .symbol [.byte 0x54#8] = .ok .escape ∧
  decode .escapeSequence [.byte 0x54#8, .byte 0x01#8] = .ok .esc55 ∧
  decode (.transition .delim .afterEscape false) [.byte 0x55#8] = .ok (.dAeBad 0x55#8) ∧
  decode (.transition .length .inFrame false) [.byte 0xFE#8] = .ok (.lRunData 0xFE#8) ∧
  decode .frame [.byte 0x55#8, .byte 0x01#8, .byte 0x00#8, .byte 0x01#8, .byte 0xFF#8, .byte 0x00#8, .byte 0x00#8,
    .byte 0xFF#8] = .ok (.setled [0x00#8, 0x01#8, 0xFF#8, 0x00#8, 0x00#8, 0xFF#8]) ∧
  decode .frame [.byte 0x55#8, .byte 0xFE#8] = .ok (.strobeB [])

/-- Decoding what the encoder writes for a well-formed instruction gives that instruction, for every instruction and
every operand, in every format in which its row is read. -/
def Obligations.DecodeAfterEncodeIsTheInstruction : Prop :=
  ∀ (i : Instr) (f : Format), wellFormed i = true → readIn i f = true → decode f (encode i) = .ok i

/-- The other direction: what the decoder reads is well-formed but for the length of a frame's payload, belongs to the
format it was read in, and is written back as the same events. -/
def Obligations.EncodeAfterDecodeIsTheEvents : Prop :=
  ∀ (f : Format) (evs : List InputEvent) (i : Instr), decode f evs = .ok i →
    readIn i f = true ∧ encode i = evs ∧ (f ≠ .frame → wellFormed i = true)

/-- R22, R70, R80, R107: for every state and input event, reachable or not, exactly one transition row can execute:
the row the decoder selects answers a next state, and no other row read from that event does. -/
def Obligations.ExactlyOneTransitionRowApplies : Prop :=
  ∀ (s : State) (ev : InputEvent) (i : Instr) (m : Mode) (q : Sync) (e : Bool),
    readIn i (.transition m q e) = true → wellFormed i = true → encode i = [ev] →
    ((∃ t, exec i s = .next t) ↔ i = s.rowFor ev)

-- The step

/-- R22, R33: when the next event decodes, in the machine's mode and state, to a well-formed instruction, the step is
exec of that instruction, and records the event as consumed and the output, if any, under the event's index. -/
def Obligations.StepRunsTheDecodedRow : Prop :=
  ∀ (s t : State) (ev : InputEvent) (rest : List InputEvent) (i : Instr), s.input = ev :: rest →
    decode (.transition s.mode s.sync s.buf.isEmpty) [ev] = .ok i → wellFormed i = true → exec i s = .next t →
    step s = .next { t with input := rest, pos := t.pos + 1,
                            trace := t.trace ++ (if t.out = .none then [] else [(t.pos, t.out)]) }

/-- R22, R168: every step from every state answers a next state, consumes exactly one event if there is one, and
produces at most one output, tagged with the event's index. With no event waiting it is an idle step, the model's
choice of log 2: nothing changes but the output, which is `None`. -/
def Obligations.StepIsTotalAndConsumesOneEvent : Prop :=
  ∀ s : State, ∃ t, step s = .next t ∧
    (∀ ev rest, s.input = ev :: rest →
      t.input = rest ∧ t.pos = s.pos + 1 ∧
      t.trace = s.trace ++ (if t.out = .none then [] else [(s.pos, t.out)])) ∧
    (s.input = [] → t = { s with out := .none })

/-- R38: what a step does is a function of the configuration, the five registers and the one event it takes: later
events, the index, the observation and the last output do not matter. -/
def Obligations.StepDependsOnRegistersAndNextEventOnly : Prop :=
  ∀ (s t : State) (ev : InputEvent) (rest rest' : List InputEvent) (k : Nat) (tr : List (Nat × Output)) (o : Output),
    s.input = ev :: rest → step s = .next t →
    step { s with input := ev :: rest', pos := k, trace := tr, out := o } =
      .next { t with input := rest', pos := k + 1, trace := tr ++ observation k t.out }

/-- R16, R17, R18: no step writes the configuration. -/
def Obligations.StepKeepsConfiguration : Prop :=
  ∀ s t : State, step s = .next t → t.mode = s.mode ∧ t.ml = s.ml

/-- R18, R35: the entries of the five fixed lead bytes are never read: configurations that agree on the module
addresses decode alike, so an entry for 0xFE changes nothing. -/
def Obligations.ReservedEntriesAreNeverRead : Prop :=
  ∀ (s t : State) (ml : Memory),
    (∀ a : Byte, a ≠ 0xFF#8 → a ≠ 0x01#8 → a ≠ 0x02#8 → a ≠ 0x03#8 → a ≠ 0xFE#8 → ml.read a = s.ml.read a) →
    step s = .next t → step { s with ml := ml } = .next { t with ml := ml }

-- Invariants and errors

/-- R24 (an inference of the spec's own): the five invariants of reachable states are kept by every step. -/
def Obligations.InvariantKeptByEveryStep : Prop :=
  ∀ s t : State, s.Invariant → step s = .next t → t.Invariant

/-- R23, R24, R190: they hold after reset, under every configuration. -/
def Obligations.InvariantAfterReset : Prop :=
  State.reset.Invariant ∧ ∀ (s : State) (m : Mode) (ml : Memory), (s.hostReset m ml).Invariant

/-- R24 item 5, last sentence, as the spec words it: "after `bad_esc` is set the left side is smaller than the right".
R104 makes this false: the pair `54 54` sets the flag and takes no unit of the counter (log 11). -/
def Obligations.BadEscapeAlwaysShortensTheCount : Prop :=
  ∀ (ml : Memory) (bs : List Byte) (t : State), (session .length ml bs).endsIn t →
    t.buf ≠ [] → t.badEsc = true → t.buf.length - 1 + t.rem < t.leadLength

/-- R162, R163, R166, R170: after any error report the partial frame and the counters are gone; a dispatch error of
`DELIM` mode leaves the decoder in the frame its `START` opens, every other error leaves it seeking. A length error
comes in `DELIM` mode only, an unexpected sync in `LENGTH` mode only. -/
def Obligations.ErrorDropsFrameAndResynchronises : Prop :=
  ∀ (s t : State) (code : ErrorCode) (lead : Option Byte), s.Invariant → step s = .next t → t.out = .err code lead →
    t.buf = [] ∧ t.rem = 0 ∧ t.syncSeen = false ∧ t.badEsc = false ∧
    t.sync = (if s.mode = .delim ∧ (code = .pvLength ∨ code = .unknownAddress) then .inFrame else .seekingStart) ∧
    (code = .pvLength → s.mode = .delim) ∧ (code = .unexpectedSync → s.mode = .length)

/-- R160, R166: the lead byte of a report: it is the frame's lead byte where one has been captured. -/
def Obligations.ErrorReportsTheCapturedLeadByte : Prop :=
  ∀ (s t : State) (code : ErrorCode) (lead : Option Byte) (a : Byte) (p : List Byte),
    s.buf = a :: p → step s = .next t → t.out = .err code lead → lead = some a

-- Runs

/-- R92 (an inference of the spec's own), against the procedure R91: in a run of `LENGTH` mode the byte-at-a-time machine does exactly what the batch procedure says: it
takes the same raw bytes, is silent until the last of them, then produces the same output and goes to the same state;
where the batch is cut short it produces nothing. -/
def Obligations.ByteStepsRealiseTheBatchProcedure : Prop :=
  ∀ (s : State) (a : Byte) (e : Nat) (stream : List Byte),
    s.mode = .length → s.sync = .inFrame → s.buf = [a] → s.rem = e + 1 → s.syncSeen = false → s.badEsc = false →
    expectedLen s.ml a = some (e + 1) → s.input = bytesIn stream →
    (Reference.batch s.ml a stream = .cutShort → ∃ t, s.endsIn t ∧ t.trace = s.trace) ∧
    (∀ out next run rest, Reference.batch s.ml a stream = .done out next run rest →
      stream = run ++ rest ∧
      s.runsTo run.length
        { s with sync := next, buf := [], rem := 0, out := out, input := bytesIn rest, pos := s.pos + run.length,
                 trace := s.trace ++ [(s.pos + run.length - 1, out)] })

/-- R37 (an inference of the spec's own; the form of the realisation is log 10's): with a buffer of `cap` cells, enough for the longest legal frame and its lead byte, and a saturating count,
the realisation produces the same outputs as the unbounded machine and holds `cap` bytes at most beside the mark that
there were more. -/
def Obligations.FiniteBufferGivesTheSameOutputs : Prop :=
  ∀ (s t : State) (cap l k : Nat), s.Invariant → s.buf = [] → s.ml.boundedBy l = true → 1 + max 16 l ≤ cap →
    s.runsTo k t →
    ∃ u, finiteRun cap k s = .next u ∧ u.trace = t.trace ∧ u.out = t.out ∧ u.sync = t.sync ∧ u.buf.length ≤ cap + 1

/-- R148 items 1 and 2 (inferences of the spec's own): a representable command sent from the reset state comes back: in `LENGTH` mode in the step of
its last byte, in `DELIM` mode in the step of one more `55`, and not without that. -/
def Obligations.OneCommandRoundTrips : Prop :=
  ∀ (ml : Memory) (c : Command), representable ml c = true →
    (∃ t, (session .length ml (encodeCommand c)).endsIn t ∧ t.trace = [((encodeCommand c).length - 1, .cmd c)] ∧
      t.sync = .inFrame ∧ t.buf = [] ∧ t.rem = 0 ∧ t.syncSeen = false ∧ t.badEsc = false) ∧
    (∃ t, (session .delim ml (encodeCommand c ++ [0x55#8])).endsIn t ∧
      t.trace = [((encodeCommand c).length, .cmd c)]) ∧
    (∃ t, (session .delim ml (encodeCommand c)).endsIn t ∧ t.trace = [])

/-- R148 item 3 (an inference of the spec's own): a stream of representable commands comes back whole and in order, in both modes. -/
def Obligations.CommandStreamRoundTrips : Prop :=
  ∀ (ml : Memory) (cs : List Command), (∀ c ∈ cs, representable ml c = true) →
    (∃ t, (session .length ml (cs.flatMap encodeCommand)).endsIn t ∧ t.trace.map Prod.snd = cs.map .cmd) ∧
    (∃ t, (session .delim ml (cs.flatMap encodeCommand ++ [0x55#8])).endsIn t ∧ t.trace.map Prod.snd = cs.map .cmd)

/-- R82 item 4 (an inference of the spec's own): in `DELIM` mode, garbage without a `55`, two frames and a closing `55` give exactly the two dispatch
results, each in the step of the `START` that closes its frame. -/
def Obligations.DelimResynchronisesAfterGarbage : Prop :=
  ∀ (ml : Memory) (g : List Byte) (f1 f2 : Frame), 0x55#8 ∉ g →
    ∃ t, (session .delim ml (g ++ encodeFrame f1 ++ encodeFrame f2 ++ [0x55#8])).endsIn t ∧
      t.trace = [(g.length + (encodeFrame f1).length, dispatch ml f1),
        (g.length + (encodeFrame f1).length + (encodeFrame f2).length, dispatch ml f2)]

/-- R109 item 5 (an inference of the spec's own): in `LENGTH` mode, garbage without a `55` and two frames of the expected lengths give exactly the two
commands, each in the step of its frame's last byte. -/
def Obligations.LengthResynchronisesAfterGarbage : Prop :=
  ∀ (ml : Memory) (g : List Byte) (f1 f2 : Frame), 0x55#8 ∉ g →
    expectedLen ml f1.address = some f1.payload.length → expectedLen ml f2.address = some f2.payload.length →
    ∃ t, (session .length ml (g ++ encodeFrame f1 ++ encodeFrame f2)).endsIn t ∧
      t.trace = [(g.length + (encodeFrame f1).length - 1, .cmd (commandOf f1)),
        (g.length + (encodeFrame f1).length + (encodeFrame f2).length - 1, .cmd (commandOf f2))]

/-- R109 item 6 (an inference of the spec's own): a `55` anywhere in the raw run of a `LENGTH`-mode frame is reported at the end of the run, and a
well-formed frame after it still decodes. -/
def Obligations.StartInsideRunIsReportedAndRecovered : Prop :=
  ∀ (ml : Memory) (a : Byte) (e : Nat) (run : List Byte) (f : Frame),
    expectedLen ml a = some (e + 1) → Reference.readRun (e + 1) run = some (run, []) → 0x55#8 ∈ run →
    expectedLen ml f.address = some f.payload.length →
    ∃ t, (session .length ml (encodeFrame ⟨a, []⟩ ++ run ++ encodeFrame f)).endsIn t ∧
      t.trace = [((encodeFrame ⟨a, []⟩).length + run.length - 1, .err .unexpectedSync (some a)),
        ((encodeFrame ⟨a, []⟩).length + run.length + (encodeFrame f).length - 1, .cmd (commandOf f))]

/-- R201, `LENGTH` mode (an inference of the spec's own): with every expected length at most `m`, `m + 1` consecutive `55` bytes bring the decoder from
any state that meets the invariants to the lead position. -/
def Obligations.IdleStartsRecoverLengthMode : Prop :=
  ∀ (s : State) (m : Nat), s.Invariant → s.mode = .length → s.ml.boundedBy m = true → 16 ≤ m →
    s.input = bytesIn (List.replicate (m + 1) 0x55#8) →
    ∃ t, s.endsIn t ∧ t.sync = .inFrame ∧ t.buf = []

/-- R201, `DELIM` mode (an inference of the spec's own): two consecutive `55` bytes do the same from every state whatever. -/
def Obligations.TwoStartsRecoverDelimMode : Prop :=
  ∀ s : State, s.mode = .delim → s.input = bytesIn [0x55#8, 0x55#8] →
    ∃ t, s.endsIn t ∧ t.sync = .inFrame ∧ t.buf = []
end

