-- ==== Sys2Proof/Laws/Memory.lean ====
section
/-! SUPPORT. The `ML` table: loading keeps the canonical form, and a read after a load. -/

namespace Sys2Proof

theorem Memory.risingFrom_mono {low low' : Nat} (h : low ≤ low') :
    ∀ {m : Memory}, Memory.risingFrom low' m = true → Memory.risingFrom low m = true
  | [], _ => rfl
  | (a, v) :: rest, hm => by
    simp only [Memory.risingFrom, Bool.and_eq_true, decide_eq_true_eq] at hm ⊢
    exact ⟨⟨Nat.le_trans h hm.1.1, hm.1.2⟩, hm.2⟩

/-- Loading an entry at or above `low` keeps the rise. -/
theorem Memory.risingFrom_write (a : Byte) (v : Option Nat) :
    ∀ {m : Memory} {low : Nat}, low ≤ a.toNat → Memory.risingFrom low m = true →
      Memory.risingFrom low (m.write a v) = true
  | [], low, hl, _ => by
    have ha : a.toNat < 256 := a.isLt
    cases v <;> simp [Memory.write, Memory.risingFrom, hl, ha]
  | (x, u) :: rest, low, hl, hm => by
    have ha : a.toNat < 256 := a.isLt
    simp only [Memory.risingFrom, Bool.and_eq_true, decide_eq_true_eq] at hm
    obtain ⟨⟨hlx, hx⟩, hrest⟩ := hm
    unfold Memory.write
    split
    next hlt =>
      have ih := Memory.risingFrom_write a v (m := rest) (low := x + 1) hlt hrest
      simp [Memory.risingFrom, hlx, hx, ih]
    next hge =>
      split
      next heq =>
        subst heq
        cases v with
        | some w => simp [Memory.risingFrom, hlx, ha, hrest]
        | none => exact Memory.risingFrom_mono (by omega) hrest
      next hne =>
        have hlt : a.toNat + 1 ≤ x := by omega
        cases v with
        | some w => simp [Memory.risingFrom, hl, ha, hlt, hx, hrest]
        | none => simp [Memory.risingFrom, hlx, hx, hrest]

/-- Every memory operation keeps the canonical form: reading does not change the table, loading keeps the form. -/
theorem Memory.write_wf {m : Memory} (a : Byte) (v : Option Nat) (h : m.wf = true) : (m.write a v).wf = true :=
  Memory.risingFrom_write a v (Nat.zero_le _) h

/-- A table that rises from above an address has no entry for it. -/
theorem Memory.read_below {a : Byte} :
    ∀ {m : Memory} {low : Nat}, a.toNat < low → Memory.risingFrom low m = true → m.read a = none
  | [], _, _, _ => rfl
  | (x, u) :: rest, low, hl, hm => by
    simp only [Memory.risingFrom, Bool.and_eq_true, decide_eq_true_eq] at hm
    have hne : x ≠ a.toNat := by omega
    simp only [Memory.read, hne, if_false]
    exact Memory.read_below (low := x + 1) (by omega) hm.2

theorem Memory.read_write_self_from {a : Byte} {v : Option Nat} :
    ∀ {m : Memory} {low : Nat}, Memory.risingFrom low m = true → (m.write a v).read a = v
  | [], _, _ => by cases v <;> simp [Memory.write, Memory.read]
  | (x, u) :: rest, low, hm => by
    simp only [Memory.risingFrom, Bool.and_eq_true, decide_eq_true_eq] at hm
    unfold Memory.write
    split
    next hlt =>
      have hne : x ≠ a.toNat := by omega
      simp only [Memory.read, hne, if_false]
      exact Memory.read_write_self_from hm.2
    next hge =>
      split
      next heq =>
        subst heq
        cases v with
        | some w => simp [Memory.read]
        | none => exact Memory.read_below (Nat.lt_succ_self _) hm.2
      next hne =>
        cases v with
        | some w => simp [Memory.read]
        | none =>
          simp only [Memory.read, hne, if_false]
          exact Memory.read_below (low := x + 1) (by omega) hm.2

/-- An entry reads as it was loaded. -/
theorem Memory.read_write_self {m : Memory} (a : Byte) (v : Option Nat) (h : m.wf = true) :
    (m.write a v).read a = v :=
  Memory.read_write_self_from h

/-- Loading one entry leaves every other entry alone. -/
theorem Memory.read_write_other {a c : Byte} (v : Option Nat) (hac : a ≠ c) :
    ∀ m : Memory, (m.write a v).read c = m.read c
  | [] => by
    have hne : a.toNat ≠ c.toNat := fun h => hac (BitVec.eq_of_toNat_eq h)
    cases v <;> simp [Memory.write, Memory.read, hne]
  | (x, u) :: rest => by
    have hne : a.toNat ≠ c.toNat := fun h => hac (BitVec.eq_of_toNat_eq h)
    unfold Memory.write
    split
    next hlt => simp [Memory.read, Memory.read_write_other v hac rest]
    next hge =>
      split
      next heq =>
        subst heq
        cases v <;> simp [Memory.read, hne]
      next hne' => cases v <;> simp [Memory.read, hne]

end Sys2Proof
end

