-- ==== Sys2Proof/Laws/State.lean ====
section
/-! SUPPORT. One lemma per field and per update of the state, so that no proof unfolds a record update. -/

namespace Sys2Proof.Machine

@[simp] theorem State.emit_sync (s : State) (o : Output) : (s.emit o).sync = s.sync := rfl
@[simp] theorem State.emit_buf (s : State) (o : Output) : (s.emit o).buf = s.buf := rfl
@[simp] theorem State.emit_rem (s : State) (o : Output) : (s.emit o).rem = s.rem := rfl
@[simp] theorem State.emit_syncSeen (s : State) (o : Output) : (s.emit o).syncSeen = s.syncSeen := rfl
@[simp] theorem State.emit_badEsc (s : State) (o : Output) : (s.emit o).badEsc = s.badEsc := rfl
@[simp] theorem State.emit_mode (s : State) (o : Output) : (s.emit o).mode = s.mode := rfl
@[simp] theorem State.emit_ml (s : State) (o : Output) : (s.emit o).ml = s.ml := rfl
@[simp] theorem State.emit_out (s : State) (o : Output) : (s.emit o).out = o := rfl
@[simp] theorem State.emit_input (s : State) (o : Output) : (s.emit o).input = s.input := rfl
@[simp] theorem State.emit_pos (s : State) (o : Output) : (s.emit o).pos = s.pos := rfl
@[simp] theorem State.emit_trace (s : State) (o : Output) : (s.emit o).trace = s.trace := rfl

@[simp] theorem State.quiet_sync (s : State) : s.quiet.sync = s.sync := rfl
@[simp] theorem State.quiet_buf (s : State) : s.quiet.buf = s.buf := rfl
@[simp] theorem State.quiet_rem (s : State) : s.quiet.rem = s.rem := rfl
@[simp] theorem State.quiet_syncSeen (s : State) : s.quiet.syncSeen = s.syncSeen := rfl
@[simp] theorem State.quiet_badEsc (s : State) : s.quiet.badEsc = s.badEsc := rfl
@[simp] theorem State.quiet_mode (s : State) : s.quiet.mode = s.mode := rfl
@[simp] theorem State.quiet_ml (s : State) : s.quiet.ml = s.ml := rfl
@[simp] theorem State.quiet_out (s : State) : s.quiet.out = .none := rfl
@[simp] theorem State.quiet_input (s : State) : s.quiet.input = s.input := rfl
@[simp] theorem State.quiet_pos (s : State) : s.quiet.pos = s.pos := rfl
@[simp] theorem State.quiet_trace (s : State) : s.quiet.trace = s.trace := rfl

@[simp] theorem State.appendByte_sync (s : State) (b : Byte) : (s.appendByte b).sync = s.sync := rfl
@[simp] theorem State.appendByte_buf (s : State) (b : Byte) : (s.appendByte b).buf = s.buf ++ [b] := rfl
@[simp] theorem State.appendByte_rem (s : State) (b : Byte) : (s.appendByte b).rem = s.rem := rfl
@[simp] theorem State.appendByte_syncSeen (s : State) (b : Byte) : (s.appendByte b).syncSeen = s.syncSeen := rfl
@[simp] theorem State.appendByte_badEsc (s : State) (b : Byte) : (s.appendByte b).badEsc = s.badEsc := rfl
@[simp] theorem State.appendByte_mode (s : State) (b : Byte) : (s.appendByte b).mode = s.mode := rfl
@[simp] theorem State.appendByte_ml (s : State) (b : Byte) : (s.appendByte b).ml = s.ml := rfl
@[simp] theorem State.appendByte_out (s : State) (b : Byte) : (s.appendByte b).out = s.out := rfl
@[simp] theorem State.appendByte_input (s : State) (b : Byte) : (s.appendByte b).input = s.input := rfl
@[simp] theorem State.appendByte_pos (s : State) (b : Byte) : (s.appendByte b).pos = s.pos := rfl
@[simp] theorem State.appendByte_trace (s : State) (b : Byte) : (s.appendByte b).trace = s.trace := rfl

@[simp] theorem State.clearFrame_sync (s : State) : s.clearFrame.sync = s.sync := rfl
@[simp] theorem State.clearFrame_buf (s : State) : s.clearFrame.buf = [] := rfl
@[simp] theorem State.clearFrame_rem (s : State) : s.clearFrame.rem = 0 := rfl
@[simp] theorem State.clearFrame_syncSeen (s : State) : s.clearFrame.syncSeen = false := rfl
@[simp] theorem State.clearFrame_badEsc (s : State) : s.clearFrame.badEsc = false := rfl
@[simp] theorem State.clearFrame_mode (s : State) : s.clearFrame.mode = s.mode := rfl
@[simp] theorem State.clearFrame_ml (s : State) : s.clearFrame.ml = s.ml := rfl
@[simp] theorem State.clearFrame_out (s : State) : s.clearFrame.out = s.out := rfl
@[simp] theorem State.clearFrame_input (s : State) : s.clearFrame.input = s.input := rfl
@[simp] theorem State.clearFrame_pos (s : State) : s.clearFrame.pos = s.pos := rfl
@[simp] theorem State.clearFrame_trace (s : State) : s.clearFrame.trace = s.trace := rfl

@[simp] theorem State.clearRegisters_sync (s : State) : s.clearRegisters.sync = .seekingStart := rfl
@[simp] theorem State.clearRegisters_buf (s : State) : s.clearRegisters.buf = [] := rfl
@[simp] theorem State.clearRegisters_rem (s : State) : s.clearRegisters.rem = 0 := rfl
@[simp] theorem State.clearRegisters_syncSeen (s : State) : s.clearRegisters.syncSeen = false := rfl
@[simp] theorem State.clearRegisters_badEsc (s : State) : s.clearRegisters.badEsc = false := rfl
@[simp] theorem State.clearRegisters_mode (s : State) : s.clearRegisters.mode = s.mode := rfl
@[simp] theorem State.clearRegisters_ml (s : State) : s.clearRegisters.ml = s.ml := rfl
@[simp] theorem State.clearRegisters_out (s : State) : s.clearRegisters.out = s.out := rfl
@[simp] theorem State.clearRegisters_input (s : State) : s.clearRegisters.input = s.input := rfl
@[simp] theorem State.clearRegisters_pos (s : State) : s.clearRegisters.pos = s.pos := rfl
@[simp] theorem State.clearRegisters_trace (s : State) : s.clearRegisters.trace = s.trace := rfl

@[simp] theorem State.raise_sync (s : State) (e : ErrorCode) (l : Option Byte) : (s.raise e l).sync = .seekingStart := rfl
@[simp] theorem State.raise_buf (s : State) (e : ErrorCode) (l : Option Byte) : (s.raise e l).buf = [] := rfl
@[simp] theorem State.raise_rem (s : State) (e : ErrorCode) (l : Option Byte) : (s.raise e l).rem = 0 := rfl
@[simp] theorem State.raise_syncSeen (s : State) (e : ErrorCode) (l : Option Byte) : (s.raise e l).syncSeen = false := rfl
@[simp] theorem State.raise_badEsc (s : State) (e : ErrorCode) (l : Option Byte) : (s.raise e l).badEsc = false := rfl
@[simp] theorem State.raise_mode (s : State) (e : ErrorCode) (l : Option Byte) : (s.raise e l).mode = s.mode := rfl
@[simp] theorem State.raise_ml (s : State) (e : ErrorCode) (l : Option Byte) : (s.raise e l).ml = s.ml := rfl
@[simp] theorem State.raise_out (s : State) (e : ErrorCode) (l : Option Byte) : (s.raise e l).out = .err e l := rfl
@[simp] theorem State.raise_input (s : State) (e : ErrorCode) (l : Option Byte) : (s.raise e l).input = s.input := rfl
@[simp] theorem State.raise_pos (s : State) (e : ErrorCode) (l : Option Byte) : (s.raise e l).pos = s.pos := rfl
@[simp] theorem State.raise_trace (s : State) (e : ErrorCode) (l : Option Byte) : (s.raise e l).trace = s.trace := rfl

@[simp] theorem State.openFrame_sync (s : State) : s.openFrame.sync = .inFrame := rfl
@[simp] theorem State.openFrame_buf (s : State) : s.openFrame.buf = [] := rfl
@[simp] theorem State.openFrame_rem (s : State) : s.openFrame.rem = s.rem := rfl
@[simp] theorem State.openFrame_syncSeen (s : State) : s.openFrame.syncSeen = s.syncSeen := rfl
@[simp] theorem State.openFrame_badEsc (s : State) : s.openFrame.badEsc = s.badEsc := rfl
@[simp] theorem State.openFrame_mode (s : State) : s.openFrame.mode = s.mode := rfl
@[simp] theorem State.openFrame_ml (s : State) : s.openFrame.ml = s.ml := rfl
@[simp] theorem State.openFrame_out (s : State) : s.openFrame.out = s.out := rfl
@[simp] theorem State.openFrame_input (s : State) : s.openFrame.input = s.input := rfl
@[simp] theorem State.openFrame_pos (s : State) : s.openFrame.pos = s.pos := rfl
@[simp] theorem State.openFrame_trace (s : State) : s.openFrame.trace = s.trace := rfl

@[simp] theorem State.hostReset_sync (s : State) (m : Mode) (ml : Memory) : (s.hostReset m ml).sync = .seekingStart := rfl
@[simp] theorem State.hostReset_buf (s : State) (m : Mode) (ml : Memory) : (s.hostReset m ml).buf = [] := rfl
@[simp] theorem State.hostReset_rem (s : State) (m : Mode) (ml : Memory) : (s.hostReset m ml).rem = 0 := rfl
@[simp] theorem State.hostReset_syncSeen (s : State) (m : Mode) (ml : Memory) : (s.hostReset m ml).syncSeen = false := rfl
@[simp] theorem State.hostReset_badEsc (s : State) (m : Mode) (ml : Memory) : (s.hostReset m ml).badEsc = false := rfl
@[simp] theorem State.hostReset_mode (s : State) (m : Mode) (ml : Memory) : (s.hostReset m ml).mode = m := rfl
@[simp] theorem State.hostReset_ml (s : State) (m : Mode) (ml : Memory) : (s.hostReset m ml).ml = ml := rfl
@[simp] theorem State.hostReset_out (s : State) (m : Mode) (ml : Memory) : (s.hostReset m ml).out = .none := rfl
@[simp] theorem State.hostReset_input (s : State) (m : Mode) (ml : Memory) : (s.hostReset m ml).input = s.input := rfl
@[simp] theorem State.hostReset_pos (s : State) (m : Mode) (ml : Memory) : (s.hostReset m ml).pos = s.pos := rfl
@[simp] theorem State.hostReset_trace (s : State) (m : Mode) (ml : Memory) : (s.hostReset m ml).trace = s.trace := rfl

@[simp] theorem State.retire_sync (s : State) (rest : List InputEvent) : (s.retire rest).sync = s.sync := rfl
@[simp] theorem State.retire_buf (s : State) (rest : List InputEvent) : (s.retire rest).buf = s.buf := rfl
@[simp] theorem State.retire_rem (s : State) (rest : List InputEvent) : (s.retire rest).rem = s.rem := rfl
@[simp] theorem State.retire_syncSeen (s : State) (rest : List InputEvent) : (s.retire rest).syncSeen = s.syncSeen := rfl
@[simp] theorem State.retire_badEsc (s : State) (rest : List InputEvent) : (s.retire rest).badEsc = s.badEsc := rfl
@[simp] theorem State.retire_mode (s : State) (rest : List InputEvent) : (s.retire rest).mode = s.mode := rfl
@[simp] theorem State.retire_ml (s : State) (rest : List InputEvent) : (s.retire rest).ml = s.ml := rfl
@[simp] theorem State.retire_out (s : State) (rest : List InputEvent) : (s.retire rest).out = s.out := rfl
@[simp] theorem State.retire_input (s : State) (rest : List InputEvent) : (s.retire rest).input = rest := rfl
@[simp] theorem State.retire_pos (s : State) (rest : List InputEvent) : (s.retire rest).pos = s.pos + 1 := rfl
@[simp] theorem State.retire_trace (s : State) (rest : List InputEvent) : (s.retire rest).trace = s.trace ++ observation s.pos s.out := rfl

@[simp] theorem State.idle_sync (s : State) : s.idle.sync = s.sync := rfl
@[simp] theorem State.idle_buf (s : State) : s.idle.buf = s.buf := rfl
@[simp] theorem State.idle_rem (s : State) : s.idle.rem = s.rem := rfl
@[simp] theorem State.idle_syncSeen (s : State) : s.idle.syncSeen = s.syncSeen := rfl
@[simp] theorem State.idle_badEsc (s : State) : s.idle.badEsc = s.badEsc := rfl
@[simp] theorem State.idle_mode (s : State) : s.idle.mode = s.mode := rfl
@[simp] theorem State.idle_ml (s : State) : s.idle.ml = s.ml := rfl
@[simp] theorem State.idle_out (s : State) : s.idle.out = .none := rfl
@[simp] theorem State.idle_input (s : State) : s.idle.input = s.input := rfl
@[simp] theorem State.idle_pos (s : State) : s.idle.pos = s.pos := rfl
@[simp] theorem State.idle_trace (s : State) : s.idle.trace = s.trace := rfl

end Sys2Proof.Machine
end

