-- ==== Sys2Proof/Laws/Ops.lean ====
section
/-! SUPPORT. One lemma per shared operation, saying once everything the operation can do; proofs cite it instead of
unfolding the operation. -/

namespace Sys2Proof.Machine

/-- A guarded row answers a next state exactly where the row applies, and then the row's effect. -/
theorem whenSelected_next {m : String} {applies : Bool} {t u : State} :
    whenSelected m applies t = .next u ↔ applies = true ∧ u = t := by
  cases applies <;> simp [whenSelected, eq_comm]

theorem whenSelected_true (m : String) (t : State) : whenSelected m true t = .next t := rfl

/-- A sequence answers a next state exactly when both parts do. -/
theorem inSequence_next {first : Host.Outcome State Fault Refusal}
    {second : State → Host.Outcome State Fault Refusal} {v : State} :
    inSequence first second = .next v ↔
      ∃ t u, first = .next t ∧ second t = .next u ∧ v = u.emit (firstEvent t.out u.out) := by
  cases first with
  | next t =>
    cases h : second t with
    | next u => simp [inSequence, h, eq_comm]
    | fault r => cases r
    | refused r => simp [inSequence, h]
  | fault r => cases r
  | refused r => simp [inSequence]

/-- The three results of the checks of `Dispatch`. -/
theorem checkedOutput_cases (ml : Memory) (a : Byte) (p : List Byte) (c : Command) :
    (expectedLen ml a = none ∧ checkedOutput ml a p c = .err .unknownAddress (some a)) ∨
    (∃ e, expectedLen ml a = some e ∧ p.length ≠ e ∧ checkedOutput ml a p c = .err .pvLength (some a)) ∨
    (expectedLen ml a = some p.length ∧ checkedOutput ml a p c = .cmd c) := by
  unfold checkedOutput
  cases h : expectedLen ml a with
  | none => exact .inl ⟨rfl, rfl⟩
  | some e =>
    by_cases hp : p.length = e
    · exact .inr (.inr ⟨by rw [hp], by simp [hp]⟩)
    · exact .inr (.inl ⟨e, rfl, hp, by simp [hp]⟩)

/-- The three cases of the lead byte. -/
theorem leadAccept_cases (s : State) (a : Byte) :
    (expectedLen s.ml a = none ∧ s.leadAccept a = s.raise .unknownAddress (some a)) ∨
    (expectedLen s.ml a = some 0 ∧
      s.leadAccept a = { s.clearFrame.emit (dispatch s.ml ⟨a, []⟩) with sync := .inFrame }) ∨
    (∃ e, expectedLen s.ml a = some (e + 1) ∧
      s.leadAccept a = { s.clearFrame.quiet with sync := .inFrame, buf := [a], rem := e + 1 }) := by
  unfold State.leadAccept
  split
  · exact .inl ⟨‹_›, rfl⟩
  · exact .inr (.inl ⟨‹_›, rfl⟩)
  · exact .inr (.inr ⟨_, ‹_›, rfl⟩)

/-- The three endings of a run, for a buffer that holds a lead byte. -/
theorem runComplete_cases {s : State} {a : Byte} {p : List Byte} (h : s.buf = a :: p) :
    (s.syncSeen = true ∧ s.runComplete = s.raise .unexpectedSync (some a)) ∨
    (s.syncSeen = false ∧ s.badEsc = true ∧ s.runComplete = s.raise .pvEscape (some a)) ∨
    (s.syncSeen = false ∧ s.badEsc = false ∧
      s.runComplete = { s.emit (dispatch s.ml ⟨a, p⟩) with sync := .inFrame, buf := [], rem := 0 }) := by
  cases hs : s.syncSeen <;> cases hb : s.badEsc <;> simp [State.runComplete, State.lead, hs, hb, h]

/-- A run ends in the step that brings the counter to 0, and is silent otherwise. -/
theorem completeIfDone_cases (s : State) :
    (s.rem = 0 ∧ s.completeIfDone = s.runComplete) ∨ (s.rem ≠ 0 ∧ s.completeIfDone = s.quiet) := by
  by_cases h : s.rem = 0
  · exact .inl ⟨h, by simp [State.completeIfDone, h]⟩
  · exact .inr ⟨h, by simp [State.completeIfDone, h]⟩

/-- Everything one step can do: idle with no event waiting, or execute the row of the next event and record it. -/
theorem step_next {s t : State} (h : step s = .next t) :
    (s.input = [] ∧ t = s.idle) ∨
    (∃ ev rest u, s.input = ev :: rest ∧ exec (s.rowFor ev) s = .next u ∧ t = u.retire rest) := by
  unfold step at h
  split at h
  · next hin =>
      injection h with h
      exact .inl ⟨hin, h.symm⟩
  · next ev rest hin =>
      split at h
      · next u hu =>
          injection h with h
          exact .inr ⟨ev, rest, u, hin, hu, h.symm⟩
      · next r _ => cases r
      · cases h

end Sys2Proof.Machine
end

