-- ==== Sys2Proof/Laws/PerInstr.lean ====
section
/-! SUPPORT. The families of statements that hold instruction by instruction. -/

namespace Sys2Proof.Laws

/-- Every instruction begins with an input event: none is read from nothing (30_encoding.md R50, R51). -/
def EncodeBegins.Statement (i : Instr) : Prop := ∃ ev rest, encode i = ev :: rest

theorem EncodeBegins.start : EncodeBegins.Statement .start :=
  ⟨_, _, rfl⟩

theorem EncodeBegins.escape : EncodeBegins.Statement .escape :=
  ⟨_, _, rfl⟩

theorem EncodeBegins.code0 : EncodeBegins.Statement .code0 :=
  ⟨_, _, rfl⟩

theorem EncodeBegins.code1 : EncodeBegins.Statement .code1 :=
  ⟨_, _, rfl⟩

theorem EncodeBegins.data (b : Byte) : EncodeBegins.Statement (.data b) :=
  ⟨_, _, rfl⟩

theorem EncodeBegins.esc54 : EncodeBegins.Statement .esc54 :=
  ⟨_, _, rfl⟩

theorem EncodeBegins.esc55 : EncodeBegins.Statement .esc55 :=
  ⟨_, _, rfl⟩

theorem EncodeBegins.escBad (c : Byte) : EncodeBegins.Statement (.escBad c) :=
  ⟨_, _, rfl⟩

theorem EncodeBegins.dSeekStart : EncodeBegins.Statement .dSeekStart :=
  ⟨_, _, rfl⟩

theorem EncodeBegins.dSeekOther (b : Byte) : EncodeBegins.Statement (.dSeekOther b) :=
  ⟨_, _, rfl⟩

theorem EncodeBegins.dInEsc : EncodeBegins.Statement .dInEsc :=
  ⟨_, _, rfl⟩

theorem EncodeBegins.dInStartFrame : EncodeBegins.Statement .dInStartFrame :=
  ⟨_, _, rfl⟩

theorem EncodeBegins.dInStartEmpty : EncodeBegins.Statement .dInStartEmpty :=
  ⟨_, _, rfl⟩

theorem EncodeBegins.dInData (b : Byte) : EncodeBegins.Statement (.dInData b) :=
  ⟨_, _, rfl⟩

theorem EncodeBegins.dAeCode0 : EncodeBegins.Statement .dAeCode0 :=
  ⟨_, _, rfl⟩

theorem EncodeBegins.dAeCode1 : EncodeBegins.Statement .dAeCode1 :=
  ⟨_, _, rfl⟩

theorem EncodeBegins.dAeBad (b : Byte) : EncodeBegins.Statement (.dAeBad b) :=
  ⟨_, _, rfl⟩

theorem EncodeBegins.dEos : EncodeBegins.Statement .dEos :=
  ⟨_, _, rfl⟩

theorem EncodeBegins.lSeekStart : EncodeBegins.Statement .lSeekStart :=
  ⟨_, _, rfl⟩

theorem EncodeBegins.lSeekOther (b : Byte) : EncodeBegins.Statement (.lSeekOther b) :=
  ⟨_, _, rfl⟩

theorem EncodeBegins.lLeadStart : EncodeBegins.Statement .lLeadStart :=
  ⟨_, _, rfl⟩

theorem EncodeBegins.lLeadEsc : EncodeBegins.Statement .lLeadEsc :=
  ⟨_, _, rfl⟩

theorem EncodeBegins.lLeadData (b : Byte) : EncodeBegins.Statement (.lLeadData b) :=
  ⟨_, _, rfl⟩

theorem EncodeBegins.lRunStart : EncodeBegins.Statement .lRunStart :=
  ⟨_, _, rfl⟩

theorem EncodeBegins.lRunEsc : EncodeBegins.Statement .lRunEsc :=
  ⟨_, _, rfl⟩

theorem EncodeBegins.lRunData (b : Byte) : EncodeBegins.Statement (.lRunData b) :=
  ⟨_, _, rfl⟩

theorem EncodeBegins.lLeadescOk (c : Byte) : EncodeBegins.Statement (.lLeadescOk c) :=
  ⟨_, _, rfl⟩

theorem EncodeBegins.lLeadescBad (b : Byte) : EncodeBegins.Statement (.lLeadescBad b) :=
  ⟨_, _, rfl⟩

theorem EncodeBegins.lRunesc (b : Byte) : EncodeBegins.Statement (.lRunesc b) :=
  ⟨_, _, rfl⟩

theorem EncodeBegins.lEos : EncodeBegins.Statement .lEos :=
  ⟨_, _, rfl⟩

theorem EncodeBegins.strobeH (p : List Byte) : EncodeBegins.Statement (.strobeH p) :=
  ⟨_, _, rfl⟩

theorem EncodeBegins.setled (p : List Byte) : EncodeBegins.Statement (.setled p) :=
  ⟨_, _, rfl⟩

theorem EncodeBegins.auth (p : List Byte) : EncodeBegins.Statement (.auth p) :=
  ⟨_, _, rfl⟩

theorem EncodeBegins.hrsetled (p : List Byte) : EncodeBegins.Statement (.hrsetled p) :=
  ⟨_, _, rfl⟩

theorem EncodeBegins.strobeB (p : List Byte) : EncodeBegins.Statement (.strobeB p) :=
  ⟨_, _, rfl⟩

theorem EncodeBegins.setch (a : Byte) (p : List Byte) : EncodeBegins.Statement (.setch a p) :=
  ⟨_, _, rfl⟩

end Sys2Proof.Laws
end

