-- ==== Sys2Proof/Tests/Slice0.lean ====
section
/-! SUPPORT. Small tests: ill-formed terms refused, words written out from the spec's tables decoded, one step of every
instruction on the worked example of its rule (or a vector of 95_test_vectors.md), and for every statement with
hypotheses a state and operands that meet them. -/

namespace Sys2Proof.Tests

open Sys2Proof.Machine

/-- The table `MLT` of 95_test_vectors.md. -/
def mlt : Memory := [(0x00, 2), (0x10, 3), (0x11, 1), (0x12, 0), (0x20, 5), (0x54, 1), (0x55, 2)]

/-- A state under that table. -/
def st (m : Mode) (q : Sync) (buf : List Byte) (rem : Nat := 0) (seen bad : Bool := false)
    (input : List InputEvent := []) : State :=
  { State.reset with
      mode := m, ml := mlt, sync := q, buf := buf, rem := rem, syncSeen := seen, badEsc := bad, input := input }

/-- The registers and the output after a meaning, if it answers a next state. -/
def after (o : Host.Outcome State Fault Refusal) : Option (Sync × List Byte × Nat × Bool × Bool × Output) :=
  match o with
  | .next t => some (t.sync, t.buf, t.rem, t.syncSeen, t.badEsc, t.out)
  | .fault _ => none
  | .refused _ => none

/-- The state after a step, for the witnesses. -/
def stepped (s : State) : State :=
  match step s with
  | .next t => t
  | .fault _ => s
  | .refused _ => s

-- WellFormed: each check refuses an ill-formed term (R50, R54, R61)

theorem test_wf_data_start : wellFormed (.data 0x55#8) = false := by decide
theorem test_wf_data_code : wellFormed (.data 0x00#8) = false := by decide
theorem test_wf_escBad : wellFormed (.escBad 0x01#8) = false := by decide
theorem test_wf_dSeekOther : wellFormed (.dSeekOther 0x55#8) = false := by decide
theorem test_wf_dInData : wellFormed (.dInData 0x54#8) = false := by decide
theorem test_wf_dAeBad : wellFormed (.dAeBad 0x00#8) = false := by decide
theorem test_wf_lSeekOther : wellFormed (.lSeekOther 0x55#8) = false := by decide
theorem test_wf_lLeadData : wellFormed (.lLeadData 0x55#8) = false := by decide
theorem test_wf_lRunData : wellFormed (.lRunData 0x54#8) = false := by decide
theorem test_wf_lLeadescOk : wellFormed (.lLeadescOk 0x02#8) = false := by decide
theorem test_wf_lLeadescBad : wellFormed (.lLeadescBad 0x01#8) = false := by decide
theorem test_wf_strobeH : wellFormed (.strobeH [0x00#8]) = false := by decide
theorem test_wf_setled : wellFormed (.setled [0#8, 1#8, 2#8, 3#8, 4#8]) = false := by decide
theorem test_wf_auth : wellFormed (.auth (List.replicate 15 0#8)) = false := by decide
theorem test_wf_hrsetled : wellFormed (.hrsetled (List.replicate 9 0#8)) = false := by decide
theorem test_wf_strobeB : wellFormed (.strobeB [0x00#8]) = false := by decide
theorem test_wf_setch : wellFormed (.setch 0xFE#8 []) = false := by decide

-- Decoding: every constructor from a word written out from the spec

theorem test_decode_start : decode .symbol [.byte 0b01010101#8] = .ok .start := rfl
theorem test_decode_escape : decode .symbol [.byte 0b01010100#8] = .ok .escape := rfl
theorem test_decode_code0 : decode .symbol [.byte 0b00000000#8] = .ok .code0 := rfl
theorem test_decode_code1 : decode .symbol [.byte 0b00000001#8] = .ok .code1 := rfl
theorem test_decode_data : decode .symbol [.byte 0b01010110#8] = .ok (.data 0x56#8) := rfl
theorem test_decode_esc54 :
    decode .escapeSequence [.byte 0b01010100#8, .byte 0b00000000#8] = .ok .esc54 := rfl
theorem test_decode_esc55 :
    decode .escapeSequence [.byte 0b01010100#8, .byte 0b00000001#8] = .ok .esc55 := rfl
theorem test_decode_escBad :
    decode .escapeSequence [.byte 0b01010100#8, .byte 0b01010101#8] = .ok (.escBad 0x55#8) := rfl
theorem test_decode_dSeekStart :
    decode (.transition .delim .seekingStart true) [.byte 0x55#8] = .ok .dSeekStart := rfl
theorem test_decode_dSeekOther :
    decode (.transition .delim .seekingStart true) [.byte 0x54#8] = .ok (.dSeekOther 0x54#8) := rfl
theorem test_decode_dInEsc : decode (.transition .delim .inFrame false) [.byte 0x54#8] = .ok .dInEsc := rfl
theorem test_decode_dInStartFrame :
    decode (.transition .delim .inFrame false) [.byte 0x55#8] = .ok .dInStartFrame := rfl
theorem test_decode_dInStartEmpty :
    decode (.transition .delim .inFrame true) [.byte 0x55#8] = .ok .dInStartEmpty := rfl
theorem test_decode_dInData :
    decode (.transition .delim .inFrame false) [.byte 0x01#8] = .ok (.dInData 0x01#8) := rfl
theorem test_decode_dAeCode0 : decode (.transition .delim .afterEscape false) [.byte 0x00#8] = .ok .dAeCode0 := rfl
theorem test_decode_dAeCode1 : decode (.transition .delim .afterEscape true) [.byte 0x01#8] = .ok .dAeCode1 := rfl
theorem test_decode_dAeBad :
    decode (.transition .delim .afterEscape false) [.byte 0x54#8] = .ok (.dAeBad 0x54#8) := rfl
theorem test_decode_dEos : decode (.transition .delim .inFrame false) [.eos] = .ok .dEos := rfl
theorem test_decode_lSeekStart :
    decode (.transition .length .seekingStart true) [.byte 0x55#8] = .ok .lSeekStart := rfl
theorem test_decode_lSeekOther :
    decode (.transition .length .seekingStart true) [.byte 0xFE#8] = .ok (.lSeekOther 0xFE#8) := rfl
theorem test_decode_lLeadStart : decode (.transition .length .inFrame true) [.byte 0x55#8] = .ok .lLeadStart := rfl
theorem test_decode_lLeadEsc : decode (.transition .length .inFrame true) [.byte 0x54#8] = .ok .lLeadEsc := rfl
theorem test_decode_lLeadData :
    decode (.transition .length .inFrame true) [.byte 0x77#8] = .ok (.lLeadData 0x77#8) := rfl
theorem test_decode_lRunStart : decode (.transition .length .inFrame false) [.byte 0x55#8] = .ok .lRunStart := rfl
theorem test_decode_lRunEsc : decode (.transition .length .inFrame false) [.byte 0x54#8] = .ok .lRunEsc := rfl
theorem test_decode_lRunData :
    decode (.transition .length .inFrame false) [.byte 0xFE#8] = .ok (.lRunData 0xFE#8) := rfl
theorem test_decode_lLeadescOk :
    decode (.transition .length .afterEscape true) [.byte 0x01#8] = .ok (.lLeadescOk 0x01#8) := rfl
theorem test_decode_lLeadescBad :
    decode (.transition .length .afterEscape true) [.byte 0x55#8] = .ok (.lLeadescBad 0x55#8) := rfl
theorem test_decode_lRunesc :
    decode (.transition .length .afterEscape false) [.byte 0x54#8] = .ok (.lRunesc 0x54#8) := rfl
theorem test_decode_lEos : decode (.transition .length .afterEscape false) [.eos] = .ok .lEos := rfl
theorem test_decode_strobeH : decode .frame [.byte 0x55#8, .byte 0xFF#8] = .ok (.strobeH []) := rfl
theorem test_decode_setled :
    decode .frame (bytesIn [0x55#8, 0x01#8, 0x00#8, 0x01#8, 0xFF#8, 0x00#8, 0x00#8, 0xFF#8]) =
      .ok (.setled [0x00#8, 0x01#8, 0xFF#8, 0x00#8, 0x00#8, 0xFF#8]) := rfl
theorem test_decode_auth :
    decode .frame (bytesIn ([0x55#8, 0x02#8, 0x41#8, 0x42#8, 0x43#8] ++ List.replicate 13 0#8)) =
      .ok (.auth ([0x41#8, 0x42#8, 0x43#8] ++ List.replicate 13 0#8)) := rfl
theorem test_decode_hrsetled :
    decode .frame (bytesIn [0x55#8, 0x03#8, 0x00#8, 0x02#8, 0x12#8, 0x34#8, 0x00#8, 0x00#8, 0xFF#8, 0xFF#8, 0x80#8,
      0x01#8]) =
      .ok (.hrsetled [0x00#8, 0x02#8, 0x12#8, 0x34#8, 0x00#8, 0x00#8, 0xFF#8, 0xFF#8, 0x80#8, 0x01#8]) := rfl
theorem test_decode_strobeB : decode .frame [.byte 0x55#8, .byte 0xFE#8] = .ok (.strobeB []) := rfl
theorem test_decode_setch :
    decode .frame (bytesIn [0x55#8, 0x54#8, 0x01#8, 0x01#8, 0x54#8, 0x00#8]) =
      .ok (.setch 0x55#8 [0x01#8, 0x54#8]) := rfl
theorem test_decode_frame_bad_escape :
    decode .frame (bytesIn [0x55#8, 0x10#8, 0x54#8, 0x02#8]) = .error .badEscape := rfl

-- Encoding (vectors EN4, EN8, EN10)

theorem test_encode_setled_escapes :
    encodeCommand (.setLed 0x5455#16 0x54#8 0x55#8 0#8 1#8) =
      [0x55#8, 0x01#8, 0x54#8, 0x00#8, 0x54#8, 0x01#8, 0x54#8, 0x00#8, 0x54#8, 0x01#8, 0x00#8, 0x01#8] := by decide
theorem test_encode_setch_escapes :
    encode (.setch 0x10#8 [0x54#8, 0x55#8, 0x00#8]) =
      bytesIn [0x55#8, 0x10#8, 0x54#8, 0x00#8, 0x54#8, 0x01#8, 0x00#8] := by decide
theorem test_encode_escaped_lead :
    encode (.setch 0x55#8 [0x01#8, 0x02#8]) = bytesIn [0x55#8, 0x54#8, 0x01#8, 0x01#8, 0x02#8] := by decide
theorem test_assemble_long_token :
    assemble (.authToken (List.replicate 17 0x41#8)) = .error .configuration := rfl

-- One step of every instruction, on the example of its rule

theorem test_dSeekStart : after (exec .dSeekStart (st .delim .seekingStart [])) =
    some (.inFrame, [], 0, false, false, .none) := by decide
theorem test_dSeekOther : after (exec (.dSeekOther 0x54#8) (st .delim .seekingStart [])) =
    some (.seekingStart, [], 0, false, false, .none) := by decide
theorem test_dInEsc : after (exec .dInEsc (st .delim .inFrame [0x10#8])) =
    some (.afterEscape, [0x10#8], 0, false, false, .none) := by decide
theorem test_dInStartFrame : after (exec .dInStartFrame (st .delim .inFrame [0x11#8, 0xAA#8])) =
    some (.inFrame, [], 0, false, false, .cmd (.setChannels 0x11#8 [0xAA#8])) := by decide
theorem test_dInStartFrame_unknown : after (exec .dInStartFrame (st .delim .inFrame [0x77#8, 0x01#8, 0x02#8])) =
    some (.inFrame, [], 0, false, false, .err .unknownAddress (some 0x77#8)) := by decide
theorem test_dInStartEmpty : after (exec .dInStartEmpty (st .delim .inFrame [])) =
    some (.inFrame, [], 0, false, false, .none) := by decide
theorem test_dInData : after (exec (.dInData 0x01#8) (st .delim .inFrame [0x01#8, 0x00#8])) =
    some (.inFrame, [0x01#8, 0x00#8, 0x01#8], 0, false, false, .none) := by decide
theorem test_dAeCode0 : after (exec .dAeCode0 (st .delim .afterEscape [0x10#8])) =
    some (.inFrame, [0x10#8, 0x54#8], 0, false, false, .none) := by decide
theorem test_dAeCode1 : after (exec .dAeCode1 (st .delim .afterEscape [])) =
    some (.inFrame, [0x55#8], 0, false, false, .none) := by decide
theorem test_dAeBad : after (exec (.dAeBad 0x02#8) (st .delim .afterEscape [0x10#8, 0xAA#8])) =
    some (.seekingStart, [], 0, false, false, .err .pvEscape (some 0x10#8)) := by decide
theorem test_dAeBad_no_lead : after (exec (.dAeBad 0x55#8) (st .delim .afterEscape [])) =
    some (.seekingStart, [], 0, false, false, .err .pvEscape none) := by decide
theorem test_dEos : after (exec .dEos (st .delim .inFrame [0xFE#8])) =
    some (.seekingStart, [], 0, false, false, .none) := by decide
theorem test_lSeekStart : after (exec .lSeekStart (st .length .seekingStart [])) =
    some (.inFrame, [], 0, false, false, .none) := by decide
theorem test_lSeekOther : after (exec (.lSeekOther 0xFE#8) (st .length .seekingStart [])) =
    some (.seekingStart, [], 0, false, false, .none) := by decide
theorem test_lLeadStart : after (exec .lLeadStart (st .length .inFrame [])) =
    some (.inFrame, [], 0, false, false, .none) := by decide
theorem test_lLeadEsc : after (exec .lLeadEsc (st .length .inFrame [])) =
    some (.afterEscape, [], 0, false, false, .none) := by decide
theorem test_lLeadData_strobe : after (exec (.lLeadData 0xFE#8) (st .length .inFrame [])) =
    some (.inFrame, [], 0, false, false, .cmd (.strobe 0xFE#8)) := by decide
theorem test_lLeadData_unknown : after (exec (.lLeadData 0x77#8) (st .length .inFrame [])) =
    some (.seekingStart, [], 0, false, false, .err .unknownAddress (some 0x77#8)) := by decide
theorem test_lRunStart : after (exec .lRunStart (st .length .inFrame [0x10#8, 0xAA#8] 2)) =
    some (.inFrame, [0x10#8, 0xAA#8, 0x55#8], 1, true, false, .none) := by decide
theorem test_lRunEsc : after (exec .lRunEsc (st .length .inFrame [0x10#8, 0xAA#8] 2)) =
    some (.afterEscape, [0x10#8, 0xAA#8], 2, false, false, .none) := by decide
theorem test_lRunData_last : after (exec (.lRunData 0xCC#8) (st .length .inFrame [0x10#8, 0xAA#8, 0xBB#8] 1)) =
    some (.inFrame, [], 0, false, false, .cmd (.setChannels 0x10#8 [0xAA#8, 0xBB#8, 0xCC#8])) := by decide
theorem test_lRunData_sync : after (exec (.lRunData 0xCC#8) (st .length .inFrame [0x10#8, 0xAA#8, 0x55#8] 1 true)) =
    some (.seekingStart, [], 0, false, false, .err .unexpectedSync (some 0x10#8)) := by decide
theorem test_lLeadescOk : after (exec (.lLeadescOk 0x00#8) (st .length .afterEscape [])) =
    some (.inFrame, [0x54#8], 1, false, false, .none) := by decide
theorem test_lLeadescBad : after (exec (.lLeadescBad 0x55#8) (st .length .afterEscape [])) =
    some (.seekingStart, [], 0, false, false, .err .pvEscape none) := by decide
theorem test_lRunesc_bad : after (exec (.lRunesc 0x07#8) (st .length .afterEscape [0x10#8, 0xAA#8] 2)) =
    some (.inFrame, [0x10#8, 0xAA#8], 1, false, true, .none) := by decide
theorem test_lRunesc_escape : after (exec (.lRunesc 0x54#8) (st .length .afterEscape [0x11#8] 1)) =
    some (.inFrame, [0x11#8], 1, false, true, .none) := by decide
theorem test_lEos : after (exec .lEos (st .length .inFrame [0x10#8, 0xAA#8, 0x55#8] 1 true)) =
    some (.seekingStart, [], 0, false, false, .none) := by decide
theorem test_start_after_escape : after (exec .start (st .delim .afterEscape [0x10#8])) =
    some (.seekingStart, [], 0, false, false, .err .pvEscape (some 0x10#8)) := by decide
theorem test_escape_seeking : after (exec .escape (st .delim .seekingStart [])) =
    some (.seekingStart, [], 0, false, false, .none) := by decide
theorem test_code0_data : after (exec .code0 (st .length .inFrame [0x20#8] 5)) =
    some (.inFrame, [0x20#8, 0x00#8], 4, false, false, .none) := by decide
theorem test_code1_literal : after (exec .code1 (st .length .afterEscape [0x11#8] 1)) =
    some (.inFrame, [], 0, false, false, .cmd (.setChannels 0x11#8 [0x55#8])) := by decide
theorem test_data_lead : after (exec (.data 0xFF#8) (st .length .inFrame [])) =
    some (.inFrame, [], 0, false, false, .cmd (.strobe 0xFF#8)) := by decide
theorem test_esc54 : after (exec .esc54 (st .delim .inFrame [0x10#8])) =
    some (.inFrame, [0x10#8, 0x54#8], 0, false, false, .none) := by decide
theorem test_esc55_lead : after (exec .esc55 (st .length .inFrame [])) =
    some (.inFrame, [0x55#8], 2, false, false, .none) := by decide
theorem test_escBad_run : after (exec (.escBad 0x55#8) (st .length .inFrame [0x10#8, 0xAA#8] 2)) =
    some (.inFrame, [0x10#8, 0xAA#8], 1, true, true, .none) := by decide
theorem test_escBad_delim : after (exec (.escBad 0x54#8) (st .delim .inFrame [0x10#8])) =
    some (.seekingStart, [], 0, false, false, .err .pvEscape (some 0x10#8)) := by decide
theorem test_strobeH_length : after (exec (.strobeH [0x00#8]) (st .delim .inFrame [])) =
    some (.inFrame, [], 0, false, false, .err .pvLength (some 0xFF#8)) := by decide
theorem test_setled : after (exec (.setled [0x54#8, 0x55#8, 0x54#8, 0x55#8, 0#8, 1#8]) (st .delim .inFrame [])) =
    some (.inFrame, [], 0, false, false, .cmd (.setLed 0x5455#16 0x54#8 0x55#8 0#8 1#8)) := by decide
theorem test_auth_short : after (exec (.auth [0x41#8]) (st .delim .inFrame [])) =
    some (.inFrame, [], 0, false, false, .err .pvLength (some 0x02#8)) := by decide
theorem test_hrsetled :
    after (exec (.hrsetled [0#8, 2#8, 0x12#8, 0x34#8, 0#8, 0#8, 0xFF#8, 0xFF#8, 0x80#8, 1#8])
      (st .delim .inFrame [])) =
    some (.inFrame, [], 0, false, false, .cmd (.highResSetLed 2#16 0x1234#16 0#16 0xFFFF#16 0x8001#16)) := by decide
theorem test_strobeB : after (exec (.strobeB []) (st .delim .inFrame [])) =
    some (.inFrame, [], 0, false, false, .cmd (.strobe 0xFE#8)) := by decide
theorem test_setch_length : after (exec (.setch 0x10#8 [1#8, 2#8]) (st .delim .inFrame [])) =
    some (.inFrame, [], 0, false, false, .err .pvLength (some 0x10#8)) := by decide
theorem test_error_numbers :
    [ErrorCode.pvEscape, .pvLength, .unexpectedSync, .unknownAddress].map ErrorCode.number = [1, 2, 3, 4] := by decide
theorem test_table_word_start : decodeTableWord 8 0x55 = some .start := by decide
theorem test_table_word_escape_pair : decodeTableWord 16 0x5401 = some .esc55 := by decide
theorem test_table_word_auth : decodeTableWord 8 0x02 = some (.auth (List.replicate 16 0#8)) := by decide
theorem test_staged_auth_runs :
    after (step (State.reset.withFetchWord 8 0x02)) =
      some (.inFrame, [], 0, false, false, .cmd (.authenticate (List.replicate 16 0#8))) := by decide

-- Witnesses: for every statement with hypotheses, a state and operands that meet them

theorem witness_EndOfStreamRowsResult :
    (st .delim .afterEscape [0x10#8]).mode = .delim ∧ (st .length .inFrame [0x10#8] 1 true).mode = .length := by decide
theorem witness_EndOfStreamStepEqualsReset :
    (st .length .inFrame [0x10#8] 1 true false [.eos]).input = .eos :: [] := by decide
theorem witness_DelimSeekRowsResult :
    (st .delim .seekingStart []).mode = .delim ∧ (st .delim .seekingStart []).sync = .seekingStart ∧
    (0x54#8 : Byte) ≠ 0x55#8 := by decide
theorem witness_DelimInFrameRowsResult :
    (st .delim .inFrame []).mode = .delim ∧ (st .delim .inFrame []).sync = .inFrame ∧
    (st .delim .inFrame []).buf = [] ∧ (0x56#8 : Byte) ≠ 0x54#8 ∧ (0x56#8 : Byte) ≠ 0x55#8 := by decide
theorem witness_DelimClosingStartDispatches :
    (st .delim .inFrame [0x11#8, 0xAA#8]).mode = .delim ∧ (st .delim .inFrame [0x11#8, 0xAA#8]).sync = .inFrame ∧
    (st .delim .inFrame [0x11#8, 0xAA#8]).buf = 0x11#8 :: [0xAA#8] := by decide
theorem witness_DelimEscapeCodesAppendLiteral :
    (st .delim .afterEscape []).mode = .delim ∧ (st .delim .afterEscape []).sync = .afterEscape := by decide
theorem witness_DelimBadEscapeResync :
    (st .delim .afterEscape [0x10#8]).mode = .delim ∧ (st .delim .afterEscape [0x10#8]).sync = .afterEscape ∧
    (0x55#8 : Byte) ≠ 0x00#8 ∧ (0x55#8 : Byte) ≠ 0x01#8 := by decide

/-- A `DELIM` state about to take a closing `START`, and one about to take a bad code. -/
def closing : State := st .delim .inFrame [0xFE#8] 0 false false [.byte 0x55#8]
def badCode : State := st .delim .afterEscape [0x10#8] 0 false false [.byte 0x02#8]

theorem witness_DelimOutputsComeOnlyFromTheirEvents_command :
    closing.mode = .delim ∧ step closing = .next (stepped closing) ∧
    (stepped closing).out = .cmd (.strobe 0xFE#8) := ⟨rfl, rfl, by decide⟩
theorem witness_DelimOutputsComeOnlyFromTheirEvents_length :
    step (st .delim .inFrame [0xFE#8, 0x09#8] 0 false false [.byte 0x55#8]) =
      .next (stepped (st .delim .inFrame [0xFE#8, 0x09#8] 0 false false [.byte 0x55#8])) ∧
    (stepped (st .delim .inFrame [0xFE#8, 0x09#8] 0 false false [.byte 0x55#8])).out =
      .err .pvLength (some 0xFE#8) := ⟨rfl, by decide⟩
theorem witness_DelimOutputsComeOnlyFromTheirEvents_address :
    step (st .delim .inFrame [0x77#8] 0 false false [.byte 0x55#8]) =
      .next (stepped (st .delim .inFrame [0x77#8] 0 false false [.byte 0x55#8])) ∧
    (stepped (st .delim .inFrame [0x77#8] 0 false false [.byte 0x55#8])).out =
      .err .unknownAddress (some 0x77#8) := ⟨rfl, by decide⟩
theorem witness_DelimOutputsComeOnlyFromTheirEvents_escape :
    badCode.mode = .delim ∧ step badCode = .next (stepped badCode) ∧
    (stepped badCode).out = .err .pvEscape (some 0x10#8) := ⟨rfl, rfl, by decide⟩
theorem witness_LengthSeekRowsResult :
    (st .length .seekingStart []).mode = .length ∧ (st .length .seekingStart []).sync = .seekingStart ∧
    (0xFE#8 : Byte) ≠ 0x55#8 := by decide
theorem witness_LengthLeadIdleAndEscape :
    (st .length .inFrame []).mode = .length ∧ (st .length .inFrame []).sync = .inFrame ∧
    (st .length .inFrame []).buf = [] := by decide
theorem witness_LengthLeadByteAccepted_raw :
    (st .length .inFrame []).mode = .length ∧ (st .length .inFrame []).buf = [] ∧
    (st .length .inFrame []).sync = .inFrame ∧
    expectedLen mlt 0x77#8 = none ∧ expectedLen mlt 0x12#8 = some 0 ∧ expectedLen mlt 0xFE#8 = some 0 ∧
    expectedLen mlt 0x11#8 = some (0 + 1) := by decide
theorem witness_LengthLeadByteAccepted_escaped :
    (st .length .afterEscape []).buf = [] ∧ (st .length .afterEscape []).sync = .afterEscape ∧
    expectedLen mlt 0x54#8 = some (0 + 1) ∧ expectedLen mlt 0x55#8 = some (1 + 1) := by decide
theorem witness_LengthLeadBadEscapeResync :
    (st .length .afterEscape []).mode = .length ∧ (st .length .afterEscape []).sync = .afterEscape ∧
    (st .length .afterEscape []).buf = [] ∧ (0x02#8 : Byte) ≠ 0x00#8 ∧ (0x02#8 : Byte) ≠ 0x01#8 := by decide
theorem witness_LengthRunRowsResult_goes_on :
    (st .length .inFrame [0x10#8] 2).mode = .length ∧ (st .length .inFrame [0x10#8] 2).sync = .inFrame ∧
    (st .length .inFrame [0x10#8] 2).buf = 0x10#8 :: [] ∧ (st .length .inFrame [0x10#8] 2).rem - 1 ≠ 0 ∧
    (0xFE#8 : Byte) ≠ 0x54#8 ∧ (0xFE#8 : Byte) ≠ 0x55#8 := by decide
theorem witness_LengthRunRowsResult_seen :
    (st .length .inFrame [0x11#8] 1 true true).mode = .length ∧
    (st .length .inFrame [0x11#8] 1 true true).sync = .inFrame ∧
    (st .length .inFrame [0x11#8] 1 true true).buf = 0x11#8 :: [] ∧
    (st .length .inFrame [0x11#8] 1 true true).rem - 1 = 0 ∧
    (st .length .inFrame [0x11#8] 1 true true).syncSeen = true := by decide
theorem witness_LengthRunRowsResult_bad :
    (st .length .inFrame [0x11#8] 1 false true).mode = .length ∧
    (st .length .inFrame [0x11#8] 1 false true).sync = .inFrame ∧
    (st .length .inFrame [0x11#8] 1 false true).buf = 0x11#8 :: [] ∧
    (st .length .inFrame [0x11#8] 1 false true).rem - 1 = 0 ∧
    (st .length .inFrame [0x11#8] 1 false true).syncSeen = false ∧
    (st .length .inFrame [0x11#8] 1 false true).badEsc = true := by decide
theorem witness_LengthRunRowsResult_clean :
    (st .length .inFrame [0x11#8] 1).mode = .length ∧ (st .length .inFrame [0x11#8] 1).sync = .inFrame ∧
    (st .length .inFrame [0x11#8] 1).buf = 0x11#8 :: [] ∧ (st .length .inFrame [0x11#8] 1).rem - 1 = 0 ∧
    (st .length .inFrame [0x11#8] 1).syncSeen = false ∧ (st .length .inFrame [0x11#8] 1).badEsc = false := by decide
theorem witness_LengthRunEscapeCodeResult_goes_on :
    (st .length .afterEscape [0x10#8] 2).mode = .length ∧ (st .length .afterEscape [0x10#8] 2).sync = .afterEscape ∧
    (st .length .afterEscape [0x10#8] 2).buf = 0x10#8 :: [] ∧ (st .length .afterEscape [0x10#8] 2).rem ≠ 0 ∧
    (st .length .afterEscape [0x10#8] 2).rem - 1 ≠ 0 := by decide
theorem witness_LengthRunEscapeCodeResult_seen :
    (st .length .afterEscape [0x11#8] 1).mode = .length ∧ (st .length .afterEscape [0x11#8] 1).sync = .afterEscape ∧
    (st .length .afterEscape [0x11#8] 1).buf = 0x11#8 :: [] ∧
    (if (0x55#8 : Byte) = 0x54#8 then (st .length .afterEscape [0x11#8] 1).rem
      else (st .length .afterEscape [0x11#8] 1).rem - 1) = 0 := by decide
theorem witness_LengthRunEscapeCodeResult_bad :
    (st .length .afterEscape [0x11#8] 1).buf = 0x11#8 :: [] ∧
    (st .length .afterEscape [0x11#8] 1).syncSeen = false ∧ (0x07#8 : Byte) ≠ 0x55#8 ∧
    (0x07#8 : Byte) ≠ 0x00#8 ∧ (0x07#8 : Byte) ≠ 0x01#8 ∧
    (if (0x07#8 : Byte) = 0x54#8 then (st .length .afterEscape [0x11#8] 1).rem
      else (st .length .afterEscape [0x11#8] 1).rem - 1) = 0 := by decide
theorem witness_LengthRunEscapeCodeResult_codes :
    (st .length .afterEscape [0x11#8] 1).buf = 0x11#8 :: [] ∧
    (st .length .afterEscape [0x11#8] 1).syncSeen = false ∧ (st .length .afterEscape [0x11#8] 1).badEsc = false ∧
    (if (0x00#8 : Byte) = 0x54#8 then (st .length .afterEscape [0x11#8] 1).rem
      else (st .length .afterEscape [0x11#8] 1).rem - 1) = 0 ∧
    (if (0x01#8 : Byte) = 0x54#8 then (st .length .afterEscape [0x11#8] 1).rem
      else (st .length .afterEscape [0x11#8] 1).rem - 1) = 0 := by decide

/-- A `LENGTH`-mode state inside a run, about to take the given bytes. -/
def inRun (bs : List Byte) : State := st .length .inFrame [0x11#8] 1 false false (bytesIn bs)

theorem inRun_inv (bs : List Byte) : (inRun bs).Invariant where
  delim_clear := by intro h; cases h
  seeking_empty := by intro h; cases h
  lead_clear := by intro _ h; cases h
  run_open := by intro _ _; exact ⟨nofun, Nat.le_refl 1, Nat.le_refl 1, Nat.le_refl 1⟩
  run_count := by intro _ _ _; rfl

theorem witness_CompletedRunIsCommandOrRunError :
    (inRun [0xAA#8]).Invariant ∧ (inRun [0xAA#8]).mode = .length ∧ (inRun [0xAA#8]).buf = 0x11#8 :: [] ∧
    (inRun [0xAA#8]).input = .byte 0xAA#8 :: [] ∧ step (inRun [0xAA#8]) = .next (stepped (inRun [0xAA#8])) ∧
    (stepped (inRun [0xAA#8])).buf = [] := ⟨inRun_inv _, rfl, rfl, rfl, rfl, rfl⟩
theorem witness_EscapesAloneKeepRunOpen :
    (inRun [0x54#8, 0x54#8, 0x54#8]).Invariant ∧ (inRun [0x54#8, 0x54#8, 0x54#8]).mode = .length ∧
    (inRun [0x54#8, 0x54#8, 0x54#8]).buf ≠ [] ∧
    (inRun [0x54#8, 0x54#8, 0x54#8]).input = bytesIn (List.replicate 3 0x54#8) :=
  ⟨inRun_inv _, by decide, by decide, by decide⟩
theorem witness_SymbolClassesRunTheirTransition :
    (0x02#8 : Byte) ≠ 0x00#8 ∧ (0x02#8 : Byte) ≠ 0x01#8 ∧ (0x02#8 : Byte) ≠ 0x54#8 ∧ (0x02#8 : Byte) ≠ 0x55#8 := by
  decide
theorem witness_DelimEscapeSequencesDeliver :
    (st .delim .inFrame []).mode = .delim ∧ (st .delim .inFrame []).sync = .inFrame ∧
    (0x54#8 : Byte) ≠ 0x00#8 ∧ (0x54#8 : Byte) ≠ 0x01#8 := by decide
theorem witness_LengthEscapeSequencesDeliver :
    (st .length .inFrame [0x10#8] 2).mode = .length ∧ (st .length .inFrame [0x10#8] 2).sync = .inFrame ∧
    (st .length .inFrame [0x10#8] 2).buf ≠ [] ∧ (st .length .inFrame [0x10#8] 2).rem - 1 ≠ 0 := by decide
theorem witness_EscapeSequenceIsItsTwoSteps :
    (inRun [0x54#8, 0x00#8]).sync = .inFrame ∧
    (inRun [0x54#8, 0x00#8]).input = .byte 0x54#8 :: .byte 0x00#8 :: [] := by decide
theorem witness_ExpectedLengthOfLeadByte :
    (0x00#8 : Byte) ≠ 0xFF#8 ∧ (0x00#8 : Byte) ≠ 0x01#8 ∧ (0x04#8 : Byte) ≠ 0x03#8 ∧ (0xFD#8 : Byte) ≠ 0xFE#8 ∧
    (0x04#8 : Byte) ≠ 0x02#8 := by decide
theorem witness_SetLedFrameResult : ([0#8, 1#8, 2#8, 3#8, 4#8, 5#8, 6#8] : List Byte).length ≠ 6 := by decide
theorem witness_HighResFrameResult : (List.replicate 11 0#8 : List Byte).length ≠ 10 := by decide
theorem witness_SetChannelsFrameResult :
    (0x11#8 : Byte) ≠ 0xFF#8 ∧ (0x11#8 : Byte) ≠ 0x01#8 ∧ (0x11#8 : Byte) ≠ 0x02#8 ∧ (0x11#8 : Byte) ≠ 0x03#8 ∧
    (0x11#8 : Byte) ≠ 0xFE#8 ∧ mlt.read 0x11#8 = some [0xAA#8].length ∧ mlt.read 0x04#8 = none ∧
    mlt.read 0x10#8 = some 3 ∧ 3 ≠ [0xAA#8].length := by decide
theorem witness_ShadowedAddressesNeverSetChannels :
    dispatch [(1, 6)] ⟨0x01#8, List.replicate 6 0#8⟩ = .cmd (.setLed 0#16 0#8 0#8 0#8 0#8) ∧
    dispatch mlt ⟨0x11#8, [0xAA#8]⟩ = .cmd (.setChannels 0x11#8 [0xAA#8]) ∧
    dispatch mlt ⟨0xFE#8, []⟩ = .cmd (.strobe 0xFE#8) := by decide
theorem witness_RowSelectFollowsTheLeadByte :
    dispatch mlt ⟨0xFE#8, []⟩ = .cmd (.strobe 0xFE#8) ∧ dispatch mlt ⟨0xFF#8, []⟩ = .cmd (.strobe 0xFF#8) := by decide
theorem witness_DeliveredCommandRebuildsItsFrame :
    dispatch mlt ⟨0x03#8, List.replicate 10 0x12#8⟩ =
      .cmd (.highResSetLed 0x1212#16 0x1212#16 0x1212#16 0x1212#16 0x1212#16) := by decide
theorem witness_RepresentableCommandDispatchesBack :
    representable mlt (.setChannels 0x12#8 []) = true ∧ representable mlt (.strobe 0xFF#8) = true ∧
    representable mlt (.authenticate (List.replicate 16 0x54#8)) = true := by decide
theorem witness_TokenPaddedToSixteenBytes :
    (List.replicate 16 0x41#8 : List Byte).length ≤ 16 ∧ 16 < (List.replicate 17 0x41#8 : List Byte).length := by decide
theorem witness_DecodeAfterEncodeIsTheInstruction :
    wellFormed (.setch 0x54#8 [0x55#8]) = true ∧ readIn (.setch 0x54#8 [0x55#8]) .frame = true := by decide
theorem witness_EncodeAfterDecodeIsTheEvents :
    decode .frame (bytesIn [0x55#8, 0x54#8, 0x00#8, 0x54#8, 0x01#8]) = .ok (.setch 0x54#8 [0x55#8]) := rfl
theorem witness_ExactlyOneTransitionRowApplies :
    readIn (.lRunesc 0x54#8) (.transition .length .afterEscape false) = true ∧ wellFormed (.lRunesc 0x54#8) = true ∧
    encode (.lRunesc 0x54#8) = [.byte 0x54#8] := by decide
theorem witness_StepRunsTheDecodedRow :
    closing.input = .byte 0x55#8 :: [] ∧
    decode (.transition closing.mode closing.sync closing.buf.isEmpty) [.byte 0x55#8] = .ok .dInStartFrame ∧
    wellFormed .dInStartFrame = true ∧
    exec .dInStartFrame closing =
      .next { closing with buf := [], out := .cmd (.strobe 0xFE#8) } := ⟨rfl, rfl, rfl, rfl⟩
theorem witness_StepIsTotalAndConsumesOneEvent :
    closing.input = .byte 0x55#8 :: [] ∧ (st .length .inFrame []).input = [] := by decide
theorem witness_StepDependsOnRegistersAndNextEventOnly :
    closing.input = .byte 0x55#8 :: [] ∧ step closing = .next (stepped closing) := ⟨rfl, rfl⟩
theorem witness_StepKeepsConfiguration : step badCode = .next (stepped badCode) := rfl
theorem witness_ReservedEntriesAreNeverRead :
    (∀ a : Byte, a ≠ 0xFF#8 → a ≠ 0x01#8 → a ≠ 0x02#8 → a ≠ 0x03#8 → a ≠ 0xFE#8 →
      Memory.read [(0xFE, 7)] a = State.reset.ml.read a) ∧
    step { State.reset with input := [.byte 0x55#8] } =
      .next (stepped { State.reset with input := [.byte 0x55#8] }) := ⟨by decide, rfl⟩
theorem witness_InvariantKeptByEveryStep :
    (inRun [0xAA#8]).Invariant ∧ step (inRun [0xAA#8]) = .next (stepped (inRun [0xAA#8])) := ⟨inRun_inv _, rfl⟩
theorem witness_BadEscapeAlwaysShortensTheCount :
    ∃ t, (session .length [(0x11, 1)] [0x55#8, 0x11#8, 0x54#8, 0x54#8]).endsIn t ∧ t.buf ≠ [] ∧ t.badEsc = true :=
  ⟨_, rfl, by decide, by decide⟩
theorem witness_ErrorDropsFrameAndResynchronises_sync :
    (inRun [0x55#8]).Invariant ∧ step (inRun [0x55#8]) = .next (stepped (inRun [0x55#8])) ∧
    (stepped (inRun [0x55#8])).out = .err .unexpectedSync (some 0x11#8) := ⟨inRun_inv _, rfl, by decide⟩
theorem badCode_inv : badCode.Invariant :=
  ⟨by decide, by decide, by decide, by decide, by decide⟩
theorem witness_ErrorDropsFrameAndResynchronises_escape :
    badCode.Invariant ∧ step badCode = .next (stepped badCode) ∧
    (stepped badCode).out = .err .pvEscape (some 0x10#8) := ⟨badCode_inv, rfl, by decide⟩

/-- A `DELIM` frame of a wrong length about to be closed. -/
def closingWrong : State := st .delim .inFrame [0xFE#8, 0x09#8] 0 false false [.byte 0x55#8]

theorem witness_ErrorDropsFrameAndResynchronises_dispatch :
    closingWrong.Invariant ∧ step closingWrong = .next (stepped closingWrong) ∧
    (stepped closingWrong).out = .err .pvLength (some 0xFE#8) :=
  ⟨⟨by decide, by decide, by decide, by decide, by decide⟩, rfl, by decide⟩
theorem witness_ErrorReportsTheCapturedLeadByte :
    badCode.buf = 0x10#8 :: [] ∧ step badCode = .next (stepped badCode) ∧
    (stepped badCode).out = .err .pvEscape (some 0x10#8) := ⟨rfl, rfl, by decide⟩
theorem witness_ByteStepsRealiseTheBatchProcedure :
    (inRun [0x54#8, 0x54#8, 0x00#8]).mode = .length ∧ (inRun [0x54#8, 0x54#8, 0x00#8]).sync = .inFrame ∧
    (inRun [0x54#8, 0x54#8, 0x00#8]).buf = [0x11#8] ∧ (inRun [0x54#8, 0x54#8, 0x00#8]).rem = 0 + 1 ∧
    (inRun [0x54#8, 0x54#8, 0x00#8]).syncSeen = false ∧ (inRun [0x54#8, 0x54#8, 0x00#8]).badEsc = false ∧
    expectedLen (inRun [0x54#8, 0x54#8, 0x00#8]).ml 0x11#8 = some (0 + 1) ∧
    (inRun [0x54#8, 0x54#8, 0x00#8]).input = bytesIn [0x54#8, 0x54#8, 0x00#8] ∧
    Reference.batch mlt 0x11#8 [0x54#8, 0x54#8, 0x00#8] =
      .done (.err .pvEscape (some 0x11#8)) .seekingStart [0x54#8, 0x54#8, 0x00#8] [] ∧
    Reference.batch mlt 0x11#8 [0x54#8, 0x54#8] = .cutShort := by decide
theorem witness_FiniteBufferGivesTheSameOutputs :
    State.reset.Invariant ∧ State.reset.buf = [] ∧ State.reset.ml.boundedBy 0 = true ∧ 1 + max 16 0 ≤ 17 ∧
    State.reset.runsTo 1 (stepped State.reset) :=
  ⟨⟨by decide, by decide, by decide, by decide, by decide⟩, rfl, rfl, by decide, rfl⟩
theorem witness_OneCommandRoundTrips : representable mlt (.setChannels 0x54#8 [0x55#8]) = true := by decide
theorem witness_CommandStreamRoundTrips :
    ∀ c ∈ [Command.strobe 0xFE#8, .setChannels 0x11#8 [0x54#8]], representable mlt c = true := by decide
theorem witness_DelimResynchronisesAfterGarbage : (0x55#8 : Byte) ∉ [0x00#8, 0x13#8, 0x54#8, 0xFE#8] := by decide
theorem witness_LengthResynchronisesAfterGarbage :
    (0x55#8 : Byte) ∉ [0x00#8, 0x13#8, 0x54#8, 0xFE#8] ∧ expectedLen mlt 0x10#8 = some [1#8, 2#8, 3#8].length ∧
    expectedLen mlt 0xFE#8 = some ([] : List Byte).length := by decide
theorem witness_StartInsideRunIsReportedAndRecovered :
    expectedLen mlt 0x10#8 = some (2 + 1) ∧
    Reference.readRun (2 + 1) [0xAA#8, 0x54#8, 0x55#8, 0xBB#8] = some ([0xAA#8, 0x54#8, 0x55#8, 0xBB#8], []) ∧
    (0x55#8 : Byte) ∈ [0xAA#8, 0x54#8, 0x55#8, 0xBB#8] ∧ expectedLen mlt 0xFF#8 = some ([] : List Byte).length := by
  decide
theorem witness_IdleStartsRecoverLengthMode :
    (inRun (List.replicate 17 0x55#8)).Invariant ∧ (inRun (List.replicate 17 0x55#8)).mode = .length ∧
    (inRun (List.replicate 17 0x55#8)).ml.boundedBy 16 = true ∧
    (inRun (List.replicate 17 0x55#8)).input = bytesIn (List.replicate (16 + 1) 0x55#8) :=
  ⟨inRun_inv _, by decide, by decide, by decide⟩
theorem witness_TwoStartsRecoverDelimMode :
    (st .delim .afterEscape [0x10#8] 0 false false (bytesIn [0x55#8, 0x55#8])).mode = .delim ∧
    (st .delim .afterEscape [0x10#8] 0 false false (bytesIn [0x55#8, 0x55#8])).input =
      bytesIn [0x55#8, 0x55#8] := by decide

end Sys2Proof.Tests
end

section
/-! PROOFS. The reset event and the reset state (10_state.md R23, 70_reset_and_hazards.md R190). -/

namespace Sys2Proof.Machine

/-- R23: the whole state that the return of the five registers to their reset values leaves. -/
theorem State.clearRegisters_eq (s : State) :
    s.clearRegisters =
      { s with sync := .seekingStart, buf := [], rem := 0, syncSeen := false, badEsc := false } := rfl

/-- R190: the whole state after a reset event; the input side and the observation stay as they were. -/
theorem State.hostReset_eq (s : State) (m : Mode) (ml : Memory) :
    s.hostReset m ml =
      { s with sync := .seekingStart, buf := [], rem := 0, syncSeen := false, badEsc := false, out := .none,
               mode := m, ml := ml } := by
  rw [State.hostReset, State.clearRegisters_eq, State.quiet, State.emit]

/-- The machine's own reset state is one that a reset leaves as it is, under the configuration it holds; so what
R190 says of the state after a reset holds of it. -/
theorem State.hostReset_reset : State.reset.hostReset State.reset.mode State.reset.ml = State.reset := rfl

/-- Settles O1: the state after any reset is `hostReset_eq`, and the reset state is its own reset, so the field lemmas
of `hostReset` give its registers. -/
theorem resetPutsRegistersAtResetValues : Obligations.ResetPutsRegistersAtResetValues := by
  unfold Obligations.ResetPutsRegistersAtResetValues
  refine ⟨State.hostReset_eq, ?_⟩
  rw [← State.hostReset_reset]
  exact ⟨State.hostReset_sync .., State.hostReset_buf .., State.hostReset_rem .., State.hostReset_syncSeen ..,
    State.hostReset_badEsc .., State.hostReset_out ..⟩

end Sys2Proof.Machine
end

section
/-! PROOFS. The fixed payload lengths and the module addresses (30_encoding.md R54, R61, 41_framing_length_mode.md
R90), and what they make of the two checks of `Dispatch` (42_command_dispatch.md R120, R127, R128). -/

namespace Sys2Proof

/-- R61: a lead byte is a module address exactly when it is none of the five fixed ones. -/
theorem Wire.isModule_iff (a : Byte) :
    Wire.isModule a = true ↔ a ≠ 0xFF#8 ∧ a ≠ 0x01#8 ∧ a ≠ 0x02#8 ∧ a ≠ 0x03#8 ∧ a ≠ 0xFE#8 := by
  unfold Wire.isModule Wire.fixedLength
  split_ifs <;> simp_all [Wire.strobeHigh, Wire.opSetLed, Wire.opAuth, Wire.opHighRes, Wire.strobeBus]

theorem expectedLen_of_fixedLength {a : Byte} {n : Nat} (ml : Memory) (h : Wire.fixedLength a = some n) :
    expectedLen ml a = some n := by
  simp only [expectedLen, h]

theorem expectedLen_of_isModule {a : Byte} (ml : Memory) (h : Wire.isModule a = true) :
    expectedLen ml a = ml.read a := by
  have hfixed : Wire.fixedLength a = none := Option.isNone_iff_eq_none.mp h
  simp only [expectedLen, hfixed]

namespace Machine

/-- R127: the address is checked first. -/
theorem checkedOutput_of_unknown {ml : Memory} {a : Byte} (p : List Byte) (c : Command)
    (h : expectedLen ml a = none) : checkedOutput ml a p c = .err .unknownAddress (some a) := by
  simp only [checkedOutput, h]

/-- R128: with an expected length, the number of payload bytes decides. -/
theorem checkedOutput_of_known {ml : Memory} {a : Byte} {n : Nat} (p : List Byte) (c : Command)
    (h : expectedLen ml a = some n) :
    checkedOutput ml a p c = if p.length = n then .cmd c else .err .pvLength (some a) := by
  simp only [checkedOutput, h, ne_eq, ite_not]

/-- R35: of a lead byte with a fixed length, the table is not consulted. -/
theorem checkedOutput_of_fixedLength {a : Byte} {n : Nat} (ml : Memory) (p : List Byte) (c : Command)
    (h : Wire.fixedLength a = some n) :
    checkedOutput ml a p c = if p.length = n then .cmd c else .err .pvLength (some a) :=
  checkedOutput_of_known p c (expectedLen_of_fixedLength ml h)

end Machine

end Sys2Proof
end

section
/-! PROOFS. Big-endian pairing as a number (20_memory.md R30, 30_encoding.md R60). -/

namespace Sys2Proof

/-- R60: the shifted high byte and the low byte share no bit, so joining them is adding them. -/
theorem word16_toNat (h l : Byte) : (word16 h l).toNat = 256 * h.toNat + l.toNat := by
  have hh : h.toNat < 2 ^ 8 := h.isLt
  have hl : l.toNat < 2 ^ 8 := l.isLt
  have hshift : (h.toNat <<< 8) % 2 ^ 16 = 256 * h.toNat := by
    rw [Nat.shiftLeft_eq]
    omega
  have hor : 256 * h.toNat ||| l.toNat = 256 * h.toNat + l.toNat := (Nat.two_pow_add_eq_or_of_lt hl _).symm
  simp only [word16, BitVec.toNat_or, BitVec.toNat_shiftLeft, BitVec.toNat_setWidth]
  rw [Nat.mod_eq_of_lt (by omega : h.toNat < 2 ^ 16), Nat.mod_eq_of_lt (by omega : l.toNat < 2 ^ 16), hshift, hor]

theorem word16_eq_ofNat (h l : Byte) : word16 h l = BitVec.ofNat 16 (256 * h.toNat + l.toNat) := by
  rw [← word16_toNat, BitVec.ofNat_toNat, BitVec.setWidth_eq]

/-- R55, R122: the command of six payload bytes, by field. -/
theorem setLedCommand_bytes (h l r g b a : Byte) :
    setLedCommand [h, l, r, g, b, a] = .setLed (word16 h l) r g b a := rfl

/-- R57, R124: the command of ten payload bytes, by field. -/
theorem highResCommand_bytes (h l rh rl gh gl bh bl ah al : Byte) :
    highResCommand [h, l, rh, rl, gh, gl, bh, bl, ah, al] =
      .highResSetLed (word16 h l) (word16 rh rl) (word16 gh gl) (word16 bh bl) (word16 ah al) := rfl

end Sys2Proof
end

section
/-! PROOFS. The frame rows `SETLED`, `AUTH`, `HRSETLED` and `SETCH` (42_command_dispatch.md R122 to R124, R126): the
whole next state of each, and the results by payload length. -/

namespace Sys2Proof.Machine

/-- Presenting the checked command of a frame form with a fixed length (R54) writes nothing but the output. -/
theorem State.emit_checkedOutput_of_fixedLength {a : Byte} {n : Nat} (s : State) (p : List Byte) (c : Command)
    (h : Wire.fixedLength a = some n) :
    s.emit (checkedOutput s.ml a p c) =
      { s with out := if p.length = n then .cmd c else .err .pvLength (some a) } := by
  rw [checkedOutput_of_fixedLength s.ml p c h, State.emit]

/-- R122, for every payload. -/
theorem exec_setled (s : State) (p : List Byte) :
    exec (.setled p) s =
      .next { s with out := if p.length = 6 then .cmd (setLedCommand p) else .err .pvLength (some 0x01#8) } :=
  congrArg Host.Outcome.next (s.emit_checkedOutput_of_fixedLength (a := Wire.opSetLed) p (setLedCommand p) rfl)

/-- R123, for every payload. -/
theorem exec_auth (s : State) (p : List Byte) :
    exec (.auth p) s =
      .next { s with out := if p.length = 16 then .cmd (.authenticate p) else .err .pvLength (some 0x02#8) } :=
  congrArg Host.Outcome.next (s.emit_checkedOutput_of_fixedLength (a := Wire.opAuth) p (authCommand p) rfl)

/-- R124, for every payload. -/
theorem exec_hrsetled (s : State) (p : List Byte) :
    exec (.hrsetled p) s =
      .next { s with out := if p.length = 10 then .cmd (highResCommand p) else .err .pvLength (some 0x03#8) } :=
  congrArg Host.Outcome.next (s.emit_checkedOutput_of_fixedLength (a := Wire.opHighRes) p (highResCommand p) rfl)

/-- R126: at a module address the row applies, and writes the output only. -/
theorem exec_setch_of_isModule (s : State) {a : Byte} (p : List Byte) (h : Wire.isModule a = true) :
    exec (.setch a p) s = .next { s with out := checkedOutput s.ml a p (.setChannels a p) } := by
  calc exec (.setch a p) s
      _ = whenSelected "SETCH" (Wire.isModule a) (s.emit (checkedOutput s.ml a p (.setChannels a p))) := rfl
      _ = _ := by rw [h, whenSelected_true]; rfl

/-- Settles O24: `exec_setled` at a payload of six bytes and at any other. -/
theorem setLedFrameResult : Obligations.SetLedFrameResult := by
  unfold Obligations.SetLedFrameResult
  intro s
  constructor
  case left =>
    intro h l r g b a
    rw [exec_setled, if_pos (by rfl), setLedCommand_bytes, word16_eq_ofNat]
  case right =>
    intro p hp
    rw [exec_setled, if_neg hp]

/-- Settles O25, which is `exec_auth`. -/
theorem authFrameResult : Obligations.AuthFrameResult := exec_auth

/-- Settles O26: `exec_hrsetled` at a payload of ten bytes and at any other. -/
theorem highResFrameResult : Obligations.HighResFrameResult := by
  unfold Obligations.HighResFrameResult
  intro s
  constructor
  case left =>
    intro h l rh rl gh gl bh bl ah al
    rw [exec_hrsetled, if_pos (by rfl), highResCommand_bytes]
    simp only [word16_eq_ofNat]
  case right =>
    intro p hp
    rw [exec_hrsetled, if_neg hp]

/-- Settles O27: the address selects the row and its expected length is the table's entry; then the checks of
`Dispatch`, one case each. -/
theorem setChannelsFrameResult : Obligations.SetChannelsFrameResult := by
  unfold Obligations.SetChannelsFrameResult
  intro s a p hFF h01 h02 h03 hFE
  have hmodule : Wire.isModule a = true := (Wire.isModule_iff a).mpr ⟨hFF, h01, h02, h03, hFE⟩
  have hlen : expectedLen s.ml a = s.ml.read a := expectedLen_of_isModule s.ml hmodule
  rw [exec_setch_of_isModule s p hmodule]
  refine ⟨fun hread => ?right_length, fun hread => ?no_entry, fun n hread hn => ?wrong_length⟩
  case right_length => rw [checkedOutput_of_known p _ (hlen.trans hread), if_pos rfl]
  case no_entry => rw [checkedOutput_of_unknown p _ (hlen.trans hread)]
  case wrong_length => rw [checkedOutput_of_known p _ (hlen.trans hread), if_neg hn.symm]

end Sys2Proof.Machine
end

section
/-! PROOFS. What the guards of the transition rows ask (40_framing_delimiter_mode.md R71 to R81), and the whole state
after the error entry (60_exceptions.md R166). -/

namespace Sys2Proof

/-- R51: the two reserved bytes, as the spec writes them. -/
theorem Wire.isReserved_iff (b : Byte) : Wire.isReserved b = true ↔ b = 0x54#8 ∨ b = 0x55#8 := by
  simp only [Wire.isReserved, Wire.escape, Wire.start, Bool.or_eq_true, beq_iff_eq]

/-- R52: the two escape codes, as the spec writes them. -/
theorem Wire.isCode_iff (c : Byte) : Wire.isCode c = true ↔ c = 0x00#8 ∨ c = 0x01#8 := by
  simp only [Wire.isCode, Wire.code0, Wire.code1, Bool.or_eq_true, beq_iff_eq]

theorem Wire.isReserved_eq_false {b : Byte} (h54 : b ≠ 0x54#8) (h55 : b ≠ 0x55#8) : Wire.isReserved b = false :=
  Bool.eq_false_iff.mpr fun h => ((Wire.isReserved_iff b).mp h).elim h54 h55

theorem Wire.isCode_eq_false {c : Byte} (h00 : c ≠ 0x00#8) (h01 : c ≠ 0x01#8) : Wire.isCode c = false :=
  Bool.eq_false_iff.mpr fun h => ((Wire.isCode_iff c).mp h).elim h00 h01

namespace Machine

theorem State.delimIn_iff (s : State) (q : Sync) : s.delimIn q = true ↔ s.mode = .delim ∧ s.sync = q := by
  simp only [State.delimIn, Bool.and_eq_true, beq_iff_eq]

/-- Where a row applies, it answers its effect `t`, however the state `t` is written. -/
theorem whenSelected_eq_next {m : String} {applies : Bool} {t u : State} (happlies : applies = true) (htu : t = u) :
    whenSelected m applies t = .next u :=
  whenSelected_next.mpr ⟨happlies, htu.symm⟩

/-- R166: the whole state after an error that the framing layer finds. -/
theorem State.raise_eq (s : State) (e : ErrorCode) (l : Option Byte) :
    s.raise e l =
      { s with sync := .seekingStart, buf := [], rem := 0, syncSeen := false, badEsc := false, out := .err e l } := by
  rw [State.raise, State.clearRegisters_eq, State.emit]

/-- R81, R106: the whole state after the end of the stream. -/
theorem State.quiet_clearRegisters_eq (s : State) :
    s.clearRegisters.quiet =
      { s with sync := .seekingStart, buf := [], rem := 0, syncSeen := false, badEsc := false, out := .none } := by
  rw [State.clearRegisters_eq, State.quiet, State.emit]

end Machine

end Sys2Proof
end

section
/-! PROOFS. The rows of `DELIM` mode and the two end-of-stream rows (40_framing_delimiter_mode.md R71 to R81,
41_framing_length_mode.md R106): the whole next state of each row where it applies. -/

namespace Sys2Proof.Machine

section
variable {s : State} (hmode : s.mode = .delim)
include hmode

/-- R71. -/
theorem exec_dSeekStart (hsync : s.sync = .seekingStart) :
    exec .dSeekStart s = .next { s with sync := .inFrame, buf := [], out := .none } :=
  whenSelected_eq_next ((s.delimIn_iff _).mpr ⟨hmode, hsync⟩) rfl

/-- R72. -/
theorem exec_dSeekOther {b : Byte} (hsync : s.sync = .seekingStart) (h55 : b ≠ 0x55#8) :
    exec (.dSeekOther b) s = .next { s with out := .none } :=
  have happlies : (s.delimIn .seekingStart && b != Wire.start) = true :=
    Bool.and_eq_true_iff.mpr ⟨(s.delimIn_iff _).mpr ⟨hmode, hsync⟩, bne_iff_ne.mpr h55⟩
  whenSelected_eq_next happlies rfl

/-- R73. -/
theorem exec_dInEsc (hsync : s.sync = .inFrame) :
    exec .dInEsc s = .next { s with sync := .afterEscape, out := .none } :=
  whenSelected_eq_next ((s.delimIn_iff _).mpr ⟨hmode, hsync⟩) rfl

/-- R74: the row needs a lead byte, and its effect does not look at what `dispatch` returned. -/
theorem exec_dInStartFrame {a : Byte} {p : List Byte} (hsync : s.sync = .inFrame) (hbuf : s.buf = a :: p) :
    exec .dInStartFrame s = .next { s with buf := [], out := dispatch s.ml ⟨a, p⟩ } := by
  show execDInStartFrame s = _
  unfold execDInStartFrame
  rw [hbuf]
  exact whenSelected_eq_next ((s.delimIn_iff _).mpr ⟨hmode, hsync⟩) rfl

/-- R75. -/
theorem exec_dInStartEmpty (hsync : s.sync = .inFrame) (hbuf : s.buf = []) :
    exec .dInStartEmpty s = .next { s with out := .none } :=
  have happlies : (s.delimIn .inFrame && s.buf.isEmpty) = true :=
    Bool.and_eq_true_iff.mpr ⟨(s.delimIn_iff _).mpr ⟨hmode, hsync⟩, List.isEmpty_iff.mpr hbuf⟩
  whenSelected_eq_next happlies rfl

/-- R76. -/
theorem exec_dInData {b : Byte} (hsync : s.sync = .inFrame) (h54 : b ≠ 0x54#8) (h55 : b ≠ 0x55#8) :
    exec (.dInData b) s = .next { s with buf := s.buf ++ [b], out := .none } :=
  have happlies : (s.delimIn .inFrame && !Wire.isReserved b) = true := by
    rw [(s.delimIn_iff _).mpr ⟨hmode, hsync⟩, Wire.isReserved_eq_false h54 h55]; rfl
  whenSelected_eq_next happlies rfl

/-- R77. -/
theorem exec_dAeCode0 (hsync : s.sync = .afterEscape) :
    exec .dAeCode0 s = .next { s with buf := s.buf ++ [0x54#8], sync := .inFrame, out := .none } :=
  whenSelected_eq_next ((s.delimIn_iff _).mpr ⟨hmode, hsync⟩) rfl

/-- R78. -/
theorem exec_dAeCode1 (hsync : s.sync = .afterEscape) :
    exec .dAeCode1 s = .next { s with buf := s.buf ++ [0x55#8], sync := .inFrame, out := .none } :=
  whenSelected_eq_next ((s.delimIn_iff _).mpr ⟨hmode, hsync⟩) rfl

/-- R79: the error entry, with the first byte of the buffer as the lead byte, if there is one. -/
theorem exec_dAeBad {b : Byte} (hsync : s.sync = .afterEscape) (h00 : b ≠ 0x00#8) (h01 : b ≠ 0x01#8) :
    exec (.dAeBad b) s =
      .next { s with sync := .seekingStart, buf := [], rem := 0, syncSeen := false, badEsc := false,
                     out := .err .pvEscape s.buf.head? } :=
  have happlies : (s.delimIn .afterEscape && !Wire.isCode b) = true := by
    rw [(s.delimIn_iff _).mpr ⟨hmode, hsync⟩, Wire.isCode_eq_false h00 h01]; rfl
  whenSelected_eq_next happlies (s.raise_eq .pvEscape s.lead)

/-- R81: in every `sync`. -/
theorem exec_dEos :
    exec .dEos s =
      .next { s with sync := .seekingStart, buf := [], rem := 0, syncSeen := false, badEsc := false, out := .none } :=
  whenSelected_eq_next (beq_iff_eq.mpr hmode) s.quiet_clearRegisters_eq

end

/-- R106: in every `sync`, a flag set or not. -/
theorem exec_lEos {s : State} (hmode : s.mode = .length) :
    exec .lEos s =
      .next { s with sync := .seekingStart, buf := [], rem := 0, syncSeen := false, badEsc := false, out := .none } :=
  whenSelected_eq_next (beq_iff_eq.mpr hmode) s.quiet_clearRegisters_eq

/-- Settles O2, mode by mode. -/
theorem endOfStreamRowsResult : Obligations.EndOfStreamRowsResult := by
  unfold Obligations.EndOfStreamRowsResult
  exact fun _ => ⟨exec_dEos, exec_lEos⟩

/-- Settles O4, row by row. -/
theorem delimSeekRowsResult : Obligations.DelimSeekRowsResult := by
  unfold Obligations.DelimSeekRowsResult
  intro s hmode hsync
  exact ⟨exec_dSeekStart hmode hsync, fun _ h55 => exec_dSeekOther hmode hsync h55⟩

/-- Settles O5, row by row. -/
theorem delimInFrameRowsResult : Obligations.DelimInFrameRowsResult := by
  unfold Obligations.DelimInFrameRowsResult
  intro s hmode hsync
  exact ⟨exec_dInEsc hmode hsync, exec_dInStartEmpty hmode hsync, fun _ h54 h55 => exec_dInData hmode hsync h54 h55⟩

/-- Settles O6, which is `exec_dInStartFrame`. -/
theorem delimClosingStartDispatches : Obligations.DelimClosingStartDispatches := by
  unfold Obligations.DelimClosingStartDispatches
  intro s a p hmode hsync hbuf
  exact exec_dInStartFrame hmode hsync hbuf

/-- Settles O7, row by row. -/
theorem delimEscapeCodesAppendLiteral : Obligations.DelimEscapeCodesAppendLiteral := by
  unfold Obligations.DelimEscapeCodesAppendLiteral
  intro s hmode hsync
  exact ⟨exec_dAeCode0 hmode hsync, exec_dAeCode1 hmode hsync⟩

/-- Settles O8, which is `exec_dAeBad`. -/
theorem delimBadEscapeResync : Obligations.DelimBadEscapeResync := by
  unfold Obligations.DelimBadEscapeResync
  intro s b hmode hsync h00 h01
  exact exec_dAeBad hmode hsync h00 h01

end Sys2Proof.Machine
end

section
/-! PROOFS. The expected length of every lead byte (41_framing_length_mode.md R90), and what `Dispatch` makes of a frame
without payload (41_framing_length_mode.md R98, 42_command_dispatch.md R120). -/

namespace Sys2Proof

/-- R61: the five fixed lead bytes, and the module addresses. -/
theorem Wire.lead_cases (a : Byte) :
    a = 0xFF#8 ∨ a = 0x01#8 ∨ a = 0x02#8 ∨ a = 0x03#8 ∨ a = 0xFE#8 ∨ Wire.isModule a = true := by
  have h := Wire.isModule_iff a
  tauto

theorem commandOf_of_isModule {a : Byte} (p : List Byte) (h : Wire.isModule a = true) :
    commandOf ⟨a, p⟩ = .setChannels a p := by
  obtain ⟨hFF, h01, h02, h03, hFE⟩ := (Wire.isModule_iff a).mp h
  simp only [commandOf, Wire.strobeHigh, Wire.opSetLed, Wire.opAuth, Wire.opHighRes, Wire.strobeBus, hFF, h01, h02,
    h03, hFE, if_false, setChannelsCommand]

namespace Machine

/-- R98, case zero: of the fixed lead bytes only the two strobes have length 0, and a module without channels is an
empty `SetChannels`. -/
theorem dispatch_nil_of_expectedLen_zero {ml : Memory} {a : Byte} (h : expectedLen ml a = some 0) :
    dispatch ml ⟨a, []⟩ = .cmd (if a = 0xFF#8 ∨ a = 0xFE#8 then .strobe a else .setChannels a []) := by
  have hcmd : dispatch ml ⟨a, []⟩ = .cmd (commandOf ⟨a, []⟩) :=
    (checkedOutput_of_known [] (commandOf ⟨a, []⟩) h).trans (if_pos rfl)
  have not_fixed_succ {n : Nat} (hfixed : Wire.fixedLength a = some (n + 1)) : False :=
    absurd ((expectedLen_of_fixedLength ml hfixed).symm.trans h) (by simp)
  rw [hcmd]
  obtain rfl | rfl | rfl | rfl | rfl | hmodule := Wire.lead_cases a
  · rfl
  · exact (not_fixed_succ (n := 5) rfl).elim
  · exact (not_fixed_succ (n := 15) rfl).elim
  · exact (not_fixed_succ (n := 9) rfl).elim
  · rfl
  · obtain ⟨hFF, -, -, -, hFE⟩ := (Wire.isModule_iff a).mp hmodule
    rw [commandOf_of_isModule [] hmodule, if_neg (not_or.mpr ⟨hFF, hFE⟩)]

/-- Settles O22: the five fixed lengths, and the module addresses. -/
theorem expectedLengthOfLeadByte : Obligations.ExpectedLengthOfLeadByte := by
  unfold Obligations.ExpectedLengthOfLeadByte
  intro ml a
  have fixed {c : Byte} {n : Nat} (hc : Wire.fixedLength c = some n) (hac : a = c) : expectedLen ml a = some n :=
    hac ▸ expectedLen_of_fixedLength ml hc
  exact ⟨fixed rfl, fixed rfl, fixed rfl, fixed rfl, fixed rfl, fun hFF h01 h02 h03 hFE =>
    expectedLen_of_isModule ml ((Wire.isModule_iff a).mpr ⟨hFF, h01, h02, h03, hFE⟩)⟩

end Machine

end Sys2Proof
end

section
/-! PROOFS. `LENGTH` mode outside a run (41_framing_length_mode.md R93 to R98, R102, R103): the guards of its rows, the
three cases of a lead byte, and the whole next state of each row where it applies. -/

namespace Sys2Proof.Machine

theorem State.lengthIn_iff (s : State) (q : Sync) : s.lengthIn q = true ↔ s.mode = .length ∧ s.sync = q := by
  simp only [State.lengthIn, Bool.and_eq_true, beq_iff_eq]

/-- The guard of the rows at the lead position. -/
theorem State.lengthIn_and_isEmpty {s : State} {q : Sync} (hmode : s.mode = .length) (hsync : s.sync = q)
    (hbuf : s.buf = []) : (s.lengthIn q && s.buf.isEmpty) = true :=
  Bool.and_eq_true_iff.mpr ⟨(s.lengthIn_iff q).mpr ⟨hmode, hsync⟩, List.isEmpty_iff.mpr hbuf⟩

/-- R98, unknown address. -/
theorem State.leadAccept_of_unknown {s : State} {a : Byte} (h : expectedLen s.ml a = none) :
    s.leadAccept a =
      { s with sync := .seekingStart, buf := [], rem := 0, syncSeen := false, badEsc := false,
               out := .err .unknownAddress (some a) } := by
  simpa [h, State.raise_eq] using leadAccept_cases s a

/-- R98, zero length: the frame is complete with its lead byte. -/
theorem State.leadAccept_of_zero {s : State} {a : Byte} (h : expectedLen s.ml a = some 0) :
    s.leadAccept a =
      { s with sync := .inFrame, buf := [], rem := 0, syncSeen := false, badEsc := false,
               out := .cmd (if a = 0xFF#8 ∨ a = 0xFE#8 then .strobe a else .setChannels a []) } := by
  simpa [h, dispatch_nil_of_expectedLen_zero h, State.emit, State.clearFrame] using leadAccept_cases s a

/-- R98, the start of a run. -/
theorem State.leadAccept_of_succ {s : State} {a : Byte} {e : Nat} (h : expectedLen s.ml a = some (e + 1)) :
    s.leadAccept a =
      { s with sync := .inFrame, buf := [a], rem := e + 1, syncSeen := false, badEsc := false, out := .none } := by
  simpa [h, State.quiet, State.emit, State.clearFrame] using leadAccept_cases s a

section
variable {s : State} (hmode : s.mode = .length)
include hmode

/-- R93. -/
theorem exec_lSeekStart (hsync : s.sync = .seekingStart) :
    exec .lSeekStart s =
      .next { s with sync := .inFrame, buf := [], rem := 0, syncSeen := false, badEsc := false, out := .none } :=
  whenSelected_eq_next ((s.lengthIn_iff _).mpr ⟨hmode, hsync⟩) rfl

/-- R94. -/
theorem exec_lSeekOther {b : Byte} (hsync : s.sync = .seekingStart) (h55 : b ≠ 0x55#8) :
    exec (.lSeekOther b) s = .next { s with out := .none } :=
  have happlies : (s.lengthIn .seekingStart && b != Wire.start) = true :=
    Bool.and_eq_true_iff.mpr ⟨(s.lengthIn_iff _).mpr ⟨hmode, hsync⟩, bne_iff_ne.mpr h55⟩
  whenSelected_eq_next happlies rfl

/-- R95. -/
theorem exec_lLeadStart (hsync : s.sync = .inFrame) (hbuf : s.buf = []) :
    exec .lLeadStart s = .next { s with out := .none } :=
  whenSelected_eq_next (s.lengthIn_and_isEmpty hmode hsync hbuf) rfl

/-- R96. -/
theorem exec_lLeadEsc (hsync : s.sync = .inFrame) (hbuf : s.buf = []) :
    exec .lLeadEsc s = .next { s with sync := .afterEscape, out := .none } :=
  whenSelected_eq_next (s.lengthIn_and_isEmpty hmode hsync hbuf) rfl

/-- R97. -/
theorem exec_lLeadData {b : Byte} (hsync : s.sync = .inFrame) (hbuf : s.buf = []) (h54 : b ≠ 0x54#8)
    (h55 : b ≠ 0x55#8) : exec (.lLeadData b) s = .next (s.leadAccept b) :=
  have happlies : (s.lengthIn .inFrame && s.buf.isEmpty && !Wire.isReserved b) = true := by
    rw [s.lengthIn_and_isEmpty hmode hsync hbuf, Wire.isReserved_eq_false h54 h55]; rfl
  whenSelected_eq_next happlies rfl

/-- R102. -/
theorem exec_lLeadescOk {c : Byte} (hsync : s.sync = .afterEscape) (hbuf : s.buf = []) (hc : Wire.isCode c = true) :
    exec (.lLeadescOk c) s = .next (s.leadAccept (unesc c)) :=
  have happlies : (s.lengthIn .afterEscape && s.buf.isEmpty && Wire.isCode c) = true :=
    Bool.and_eq_true_iff.mpr ⟨s.lengthIn_and_isEmpty hmode hsync hbuf, hc⟩
  whenSelected_eq_next happlies rfl

/-- R103: no lead byte has been captured. -/
theorem exec_lLeadescBad {b : Byte} (hsync : s.sync = .afterEscape) (hbuf : s.buf = []) (h00 : b ≠ 0x00#8)
    (h01 : b ≠ 0x01#8) :
    exec (.lLeadescBad b) s =
      .next { s with sync := .seekingStart, buf := [], rem := 0, syncSeen := false, badEsc := false,
                     out := .err .pvEscape none } :=
  have happlies : (s.lengthIn .afterEscape && s.buf.isEmpty && !Wire.isCode b) = true := by
    rw [s.lengthIn_and_isEmpty hmode hsync hbuf, Wire.isCode_eq_false h00 h01]; rfl
  whenSelected_eq_next happlies (s.raise_eq .pvEscape none)

end

/-- Settles O10, row by row. -/
theorem lengthSeekRowsResult : Obligations.LengthSeekRowsResult := by
  unfold Obligations.LengthSeekRowsResult
  intro s hmode hsync
  exact ⟨exec_lSeekStart hmode hsync, fun _ h55 => exec_lSeekOther hmode hsync h55⟩

/-- Settles O11, row by row. -/
theorem lengthLeadIdleAndEscape : Obligations.LengthLeadIdleAndEscape := by
  unfold Obligations.LengthLeadIdleAndEscape
  intro s hmode hsync hbuf
  exact ⟨exec_lLeadStart hmode hsync hbuf, exec_lLeadEsc hmode hsync hbuf⟩

/-- Settles O12: however the lead byte was read, the row is `LeadAccept` of it, which has three cases. -/
theorem lengthLeadByteAccepted : Obligations.LengthLeadByteAccepted := by
  unfold Obligations.LengthLeadByteAccepted
  intro s i a hmode hbuf hread
  have haccept : exec i s = .next (s.leadAccept a) := by
    obtain ⟨hsync, rfl, h54, h55⟩ | ⟨hsync, rfl, rfl⟩ | ⟨hsync, rfl, rfl⟩ := hread
    · exact exec_lLeadData hmode hsync hbuf h54 h55
    · exact exec_lLeadescOk hmode hsync hbuf rfl
    · exact exec_lLeadescOk hmode hsync hbuf rfl
  rw [haccept]
  exact ⟨fun h => congrArg _ (State.leadAccept_of_unknown h), fun h => congrArg _ (State.leadAccept_of_zero h),
    fun _ h => congrArg _ (State.leadAccept_of_succ h)⟩

/-- Settles O13, which is `exec_lLeadescBad`. -/
theorem lengthLeadBadEscapeResync : Obligations.LengthLeadBadEscapeResync := by
  unfold Obligations.LengthLeadBadEscapeResync
  intro s b hmode hsync hbuf h00 h01
  exact exec_lLeadescBad hmode hsync hbuf h00 h01

end Sys2Proof.Machine
end

section
/-! PROOFS. What one raw byte of a run does to the flags and the counter (10_state.md R13 to R15), and how a run goes on
or ends (41_framing_length_mode.md R105, R107). -/

namespace Sys2Proof.Machine

theorem syncSeenAfter_iff (seen : Bool) (b : Byte) : syncSeenAfter seen b = true ↔ seen = true ∨ b = 0x55#8 := by
  simp only [syncSeenAfter, Wire.start, Bool.or_eq_true, beq_iff_eq]

theorem badEscAfter_iff (bad : Bool) (c : Byte) :
    badEscAfter bad c = true ↔ bad = true ∨ (c ≠ 0x00#8 ∧ c ≠ 0x01#8) := by
  rw [badEscAfter, Bool.or_eq_true, Bool.not_eq_true', ← Bool.not_eq_true, Wire.isCode_iff, not_or]

theorem syncSeenAfter_of_ne {b : Byte} (seen : Bool) (h55 : b ≠ 0x55#8) : syncSeenAfter seen b = seen :=
  Bool.eq_iff_iff.mpr ((syncSeenAfter_iff seen b).trans (or_iff_left h55))

theorem badEscAfter_of_isCode {c : Byte} (bad : Bool) (hc : Wire.isCode c = true) : badEscAfter bad c = bad := by
  rw [badEscAfter, hc, Bool.not_true, Bool.or_false]

theorem remAfter_escape (n : Nat) : remAfter n 0x54#8 = n := if_pos rfl

theorem remAfter_of_ne {b : Byte} (n : Nat) (h54 : b ≠ 0x54#8) : remAfter n b = n - 1 := if_neg h54

/-- R104: a byte that is no escape code appends nothing. -/
theorem literalOf_of_not_isCode {c : Byte} (hc : Wire.isCode c = false) : literalOf c = [] := by
  rw [literalOf, hc, if_neg Bool.false_ne_true]

theorem State.completeIfDone_of_rem_zero {s : State} (hrem : s.rem = 0) : s.completeIfDone = s.runComplete :=
  if_pos hrem

/-- R107: before the counter reaches 0 the run goes on in silence. -/
theorem State.completeIfDone_of_rem_ne {s : State} (hrem : s.rem ≠ 0) : s.completeIfDone = { s with out := .none } :=
  if_neg hrem

section
variable {s : State} {a : Byte} {p : List Byte} (hrem : s.rem = 0) (hbuf : s.buf = a :: p)
include hrem hbuf

/-- R105: a raw `START` in the run is reported first (R167). -/
theorem State.completeIfDone_of_syncSeen (hseen : s.syncSeen = true) :
    s.completeIfDone =
      { s with sync := .seekingStart, buf := [], rem := 0, syncSeen := false, badEsc := false,
               out := .err .unexpectedSync (some a) } := by
  rw [State.completeIfDone_of_rem_zero hrem]
  simpa [hseen, State.raise_eq] using runComplete_cases hbuf

/-- R105: then a bad escape code. -/
theorem State.completeIfDone_of_badEsc (hseen : s.syncSeen = false) (hbad : s.badEsc = true) :
    s.completeIfDone =
      { s with sync := .seekingStart, buf := [], rem := 0, syncSeen := false, badEsc := false,
               out := .err .pvEscape (some a) } := by
  rw [State.completeIfDone_of_rem_zero hrem]
  simpa [hseen, hbad, State.raise_eq] using runComplete_cases hbuf

/-- R105: a clean run is dispatched, and the decoder stays at the lead position. -/
theorem State.completeIfDone_of_clean (hseen : s.syncSeen = false) (hbad : s.badEsc = false) :
    s.completeIfDone = { s with sync := .inFrame, buf := [], rem := 0, out := dispatch s.ml ⟨a, p⟩ } := by
  rw [State.completeIfDone_of_rem_zero hrem]
  simpa [hseen, hbad, State.emit] using runComplete_cases hbuf

end

end Sys2Proof.Machine
end

section
/-! PROOFS. `LENGTH` mode inside a run (41_framing_length_mode.md R99 to R101, R104): the registers each row updates
before it asks whether the run is complete. -/

namespace Sys2Proof.Machine

/-- The guard of the rows inside a run. -/
theorem State.lengthIn_and_not_isEmpty {s : State} {q : Sync} {a : Byte} {p : List Byte} (hmode : s.mode = .length)
    (hsync : s.sync = q) (hbuf : s.buf = a :: p) : (s.lengthIn q && !s.buf.isEmpty) = true := by
  rw [(s.lengthIn_iff q).mpr ⟨hmode, hsync⟩, hbuf]; rfl

section
variable {s : State} {a : Byte} {p : List Byte} (hmode : s.mode = .length) (hbuf : s.buf = a :: p)
include hmode hbuf

/-- R101. -/
theorem exec_lRunEsc (hsync : s.sync = .inFrame) :
    exec .lRunEsc s = .next { s with sync := .afterEscape, out := .none } :=
  whenSelected_eq_next (s.lengthIn_and_not_isEmpty hmode hsync hbuf) rfl

/-- R100. -/
theorem exec_lRunStart (hsync : s.sync = .inFrame) :
    exec .lRunStart s =
      .next ({ s with buf := a :: p ++ [0x55#8], rem := s.rem - 1, syncSeen := true } : State).completeIfDone := by
  have hseen : syncSeenAfter s.syncSeen Wire.start = true := (syncSeenAfter_iff _ _).mpr (.inr rfl)
  refine whenSelected_eq_next (s.lengthIn_and_not_isEmpty hmode hsync hbuf) ?_
  rw [hseen, State.appendByte, hbuf]
  rfl

/-- R99. -/
theorem exec_lRunData {b : Byte} (hsync : s.sync = .inFrame) (h54 : b ≠ 0x54#8) (h55 : b ≠ 0x55#8) :
    exec (.lRunData b) s =
      .next ({ s with buf := a :: p ++ [b], rem := s.rem - 1 } : State).completeIfDone := by
  have happlies : (s.lengthIn .inFrame && !s.buf.isEmpty && !Wire.isReserved b) = true := by
    rw [s.lengthIn_and_not_isEmpty hmode hsync hbuf, Wire.isReserved_eq_false h54 h55]; rfl
  refine whenSelected_eq_next happlies ?_
  rw [remAfter_of_ne _ h54, State.appendByte, hbuf]

/-- R104, for every code byte. -/
theorem exec_lRunesc (b : Byte) (hsync : s.sync = .afterEscape) :
    exec (.lRunesc b) s =
      .next ({ s with sync := .inFrame, buf := a :: p ++ literalOf b, syncSeen := syncSeenAfter s.syncSeen b,
                      badEsc := badEscAfter s.badEsc b, rem := remAfter s.rem b } : State).completeIfDone := by
  refine whenSelected_eq_next (s.lengthIn_and_not_isEmpty hmode hsync hbuf) ?_
  rw [hbuf]

end

/-- Settles O14: the updated registers of the row, then the case of the counter and the flags. -/
theorem lengthRunRowsResult : Obligations.LengthRunRowsResult := by
  unfold Obligations.LengthRunRowsResult
  intro s a p hmode hsync hbuf
  refine ⟨exec_lRunEsc hmode hbuf hsync, ?_, ?_, fun b h54 h55 => ?_⟩
  · intro hrem
    rw [exec_lRunStart hmode hbuf hsync, State.completeIfDone_of_rem_ne hrem]
  · intro hrem
    rw [exec_lRunStart hmode hbuf hsync, State.completeIfDone_of_syncSeen hrem rfl rfl]
  · rw [exec_lRunData hmode hbuf hsync h54 h55]
    exact ⟨fun hrem => congrArg _ (State.completeIfDone_of_rem_ne hrem),
      fun hrem hseen => congrArg _ (State.completeIfDone_of_syncSeen hrem rfl hseen),
      fun hrem hseen hbad => congrArg _ (State.completeIfDone_of_badEsc hrem rfl hseen hbad),
      fun hrem hseen hbad => congrArg _ (State.completeIfDone_of_clean hrem rfl hseen hbad)⟩

section
variable {s : State} {a : Byte} {p : List Byte} {b : Byte}
  (hmode : s.mode = .length) (hsync : s.sync = .afterEscape) (hbuf : s.buf = a :: p)
include hmode hsync hbuf

/-- R104: an escape code is its literal, which takes one unit and sets no flag. -/
theorem exec_lRunesc_of_isCode (hc : Wire.isCode b = true) :
    exec (.lRunesc b) s =
      .next ({ s with sync := .inFrame, buf := a :: p ++ [unesc b], rem := s.rem - 1 } : State).completeIfDone := by
  have hliteral : literalOf b = [unesc b] := if_pos hc
  have hne : b ≠ 0x54#8 ∧ b ≠ 0x55#8 := by
    obtain rfl | rfl := (Wire.isCode_iff b).mp hc <;> decide
  obtain ⟨h54, h55⟩ := hne
  rw [exec_lRunesc hmode hbuf b hsync, hliteral, syncSeenAfter_of_ne _ h55, badEscAfter_of_isCode _ hc,
    remAfter_of_ne _ h54]

theorem exec_lRunesc_of_isCode_goes_on (hc : Wire.isCode b = true) (hrem : s.rem - 1 ≠ 0) :
    exec (.lRunesc b) s =
      .next { s with sync := .inFrame, buf := a :: p ++ [unesc b], rem := s.rem - 1, out := .none } := by
  rw [exec_lRunesc_of_isCode hmode hsync hbuf hc, State.completeIfDone_of_rem_ne hrem]

theorem exec_lRunesc_of_isCode_dispatches (hc : Wire.isCode b = true) (hrem : s.rem - 1 = 0)
    (hseen : s.syncSeen = false) (hbad : s.badEsc = false) :
    exec (.lRunesc b) s =
      .next { s with sync := .inFrame, buf := [], rem := 0, out := dispatch s.ml ⟨a, p ++ [unesc b]⟩ } := by
  rw [exec_lRunesc_of_isCode hmode hsync hbuf hc]
  exact congrArg _ (State.completeIfDone_of_clean hrem rfl hseen hbad)

/-- R104: any other byte sets `bad_esc` and appends nothing. -/
theorem exec_lRunesc_of_not_code (h00 : b ≠ 0x00#8) (h01 : b ≠ 0x01#8) :
    exec (.lRunesc b) s =
      .next ({ s with sync := .inFrame, badEsc := true, syncSeen := syncSeenAfter s.syncSeen b,
                      rem := remAfter s.rem b } : State).completeIfDone := by
  have hbad : badEscAfter s.badEsc b = true := (badEscAfter_iff _ b).mpr (.inr ⟨h00, h01⟩)
  rw [exec_lRunesc hmode hbuf b hsync, literalOf_of_not_isCode (Wire.isCode_eq_false h00 h01), hbad, List.append_nil,
    ← hbuf]

end

/-- Settles O15: the updated registers of the row, then the case of the code byte while the run goes on, and of the
flags where it completes. -/
theorem lengthRunEscapeCodeResult : Obligations.LengthRunEscapeCodeResult := by
  unfold Obligations.LengthRunEscapeCodeResult
  intro s a p b hmode hsync hbuf
  refine ⟨?escape, fun hrem => ⟨?code0, ?code1, ?start, ?other⟩, fun hrem => ⟨?seen, ?bad, ?clean0, ?clean1⟩⟩
  case escape =>
    rintro rfl hrem
    rw [exec_lRunesc_of_not_code hmode hsync hbuf (by decide) (by decide), syncSeenAfter_of_ne _ (by decide),
      remAfter_escape]
    exact congrArg _ (State.completeIfDone_of_rem_ne hrem)
  case code0 =>
    rintro rfl
    exact exec_lRunesc_of_isCode_goes_on hmode hsync hbuf rfl hrem
  case code1 =>
    rintro rfl
    exact exec_lRunesc_of_isCode_goes_on hmode hsync hbuf rfl hrem
  case start =>
    rintro rfl
    have hseen : syncSeenAfter s.syncSeen 0x55#8 = true := (syncSeenAfter_iff _ _).mpr (.inr rfl)
    rw [exec_lRunesc_of_not_code hmode hsync hbuf (by decide) (by decide), hseen,
      remAfter_of_ne _ (by decide), State.completeIfDone_of_rem_ne hrem]
  case other =>
    intro h00 h01 h54 h55
    rw [exec_lRunesc_of_not_code hmode hsync hbuf h00 h01, syncSeenAfter_of_ne _ h55, remAfter_of_ne _ h54,
      State.completeIfDone_of_rem_ne hrem]
  case seen =>
    intro hseen
    rw [exec_lRunesc hmode hbuf b hsync,
      State.completeIfDone_of_syncSeen hrem rfl ((syncSeenAfter_iff _ b).mpr hseen)]
  case bad =>
    intro hseen h55 hbad
    have hseen' : syncSeenAfter s.syncSeen b = false := (syncSeenAfter_of_ne _ h55).trans hseen
    rw [exec_lRunesc hmode hbuf b hsync,
      State.completeIfDone_of_badEsc hrem rfl hseen' ((badEscAfter_iff _ b).mpr hbad)]
  case clean0 =>
    rintro hseen hbad rfl
    exact exec_lRunesc_of_isCode_dispatches hmode hsync hbuf rfl hrem hseen hbad
  case clean1 =>
    rintro hseen hbad rfl
    exact exec_lRunesc_of_isCode_dispatches hmode hsync hbuf rfl hrem hseen hbad

end Sys2Proof.Machine
end

section
/-! PROOFS. The strobe rows `STROBE.H` and `STROBE.B` (42_command_dispatch.md R121, R125): the whole next state of each,
for every payload. -/

namespace Sys2Proof.Machine

/-- R54, R58: for a lead byte of fixed length 0, the length check asks whether the payload is empty. -/
theorem State.emit_checkedOutput_of_fixedLength_zero {a : Byte} (s : State) (p : List Byte) (c : Command)
    (h : Wire.fixedLength a = some 0) :
    s.emit (checkedOutput s.ml a p c) = { s with out := if p = [] then .cmd c else .err .pvLength (some a) } := by
  rw [s.emit_checkedOutput_of_fixedLength p c h, if_congr List.length_eq_zero_iff rfl rfl]

/-- R121, for every payload. -/
theorem exec_strobeH (s : State) (p : List Byte) :
    exec (.strobeH p) s =
      .next { s with out := if p = [] then .cmd (.strobe 0xFF#8) else .err .pvLength (some 0xFF#8) } :=
  congrArg Host.Outcome.next (s.emit_checkedOutput_of_fixedLength_zero (a := Wire.strobeHigh) p strobeHCommand rfl)

/-- R125, for every payload. -/
theorem exec_strobeB (s : State) (p : List Byte) :
    exec (.strobeB p) s =
      .next { s with out := if p = [] then .cmd (.strobe 0xFE#8) else .err .pvLength (some 0xFE#8) } :=
  congrArg Host.Outcome.next (s.emit_checkedOutput_of_fixedLength_zero (a := Wire.strobeBus) p strobeBCommand rfl)

/-- Settles O23, which is `exec_strobeH` and `exec_strobeB`. -/
theorem strobeFramesResult : Obligations.StrobeFramesResult := by
  unfold Obligations.StrobeFramesResult
  exact fun s p => ⟨exec_strobeH s p, exec_strobeB s p⟩

end Sys2Proof.Machine
end

section
/-! PROOFS. The caller's token on the transmitting side (43_encoder_reference.md R144, 30_encoding.md R66): the two answers
of `authenticateCommand`, and the length of the padded token. -/

namespace Sys2Proof

/-- R144: the caller's token with the zeros that bring a short one to the token length. -/
def paddedToken (t : List Byte) : List Byte := t ++ List.replicate (Wire.tokenLength - t.length) 0#8

theorem length_paddedToken {t : List Byte} (h : t.length ≤ Wire.tokenLength) :
    (paddedToken t).length = Wire.tokenLength := by
  rw [paddedToken, List.length_append, List.length_replicate, Nat.add_sub_of_le h]

theorem authenticateCommand_of_length_le {t : List Byte} (h : t.length ≤ Wire.tokenLength) :
    authenticateCommand t = .ok (.authenticate (paddedToken t)) :=
  if_pos h

theorem authenticateCommand_of_lt_length {t : List Byte} (h : Wire.tokenLength < t.length) :
    authenticateCommand t = .error .configuration :=
  if_neg (Nat.not_le_of_lt h)

@[simp] theorem frameOf_authenticate (token : List Byte) : frameOf (.authenticate token) = ⟨Wire.opAuth, token⟩ := rfl

/-- Settles O34: the two answers of `authenticateCommand`, at most and above the token length. -/
theorem tokenPaddedToSixteenBytes : Obligations.TokenPaddedToSixteenBytes := by
  unfold Obligations.TokenPaddedToSixteenBytes
  intro t
  constructor
  · intro hshort
    exact ⟨.authenticate (paddedToken t), authenticateCommand_of_length_le hshort, frameOf_authenticate (paddedToken t),
      length_paddedToken hshort⟩
  · intro hlong
    exact authenticateCommand_of_lt_length hlong

end Sys2Proof
end

section
/-! PROOFS. What one event can do in either mode, row by row (40_framing_delimiter_mode.md R80, 41_framing_length_mode.md
R107): silence, an error of the framing layer, a dispatch, or a raw byte of a run. -/

namespace Sys2Proof.Machine

/-- R80: what a byte or the end of the stream can do in `DELIM` mode. -/
theorem exec_rowFor_delim_cases {s u : State} {ev : InputEvent} (hmode : s.mode = .delim)
    (h : exec (s.rowFor ev) s = .next u) :
    u.out = .none ∨ u = s.raise .pvEscape s.lead ∨
    ∃ a p, s.sync = .inFrame ∧ s.buf = a :: p ∧ u = { s with buf := [], out := dispatch s.ml ⟨a, p⟩ } := by
  rw [State.rowFor, hmode] at h
  cases ev with
  | eos =>
    cases (exec_dEos hmode).symm.trans h
    exact .inl rfl
  | byte b =>
    simp only [transitionRow] at h
    cases hsync : s.sync with
    | seekingStart =>
      left
      simp only [delimRow, hsync] at h
      split_ifs at h with hstart
      · cases (exec_dSeekStart hmode hsync).symm.trans h; rfl
      · cases (exec_dSeekOther hmode hsync hstart).symm.trans h; rfl
    | inFrame =>
      simp only [delimRow, hsync] at h
      split_ifs at h with hescape hstart hempty
      · cases (exec_dInEsc hmode hsync).symm.trans h
        exact .inl rfl
      · cases (exec_dInStartEmpty hmode hsync (List.isEmpty_iff.mp hempty)).symm.trans h
        exact .inl rfl
      · obtain ⟨a, p, hbuf⟩ := List.exists_cons_of_ne_nil (mt List.isEmpty_iff.mpr hempty)
        cases (exec_dInStartFrame hmode hsync hbuf).symm.trans h
        exact .inr (.inr ⟨a, p, rfl, hbuf, by rw [hsync]⟩)
      · cases (exec_dInData hmode hsync hescape hstart).symm.trans h
        exact .inl rfl
    | afterEscape =>
      simp only [delimRow, hsync] at h
      split_ifs at h with h00 h01
      · cases (exec_dAeCode0 hmode hsync).symm.trans h
        exact .inl rfl
      · cases (exec_dAeCode1 hmode hsync).symm.trans h
        exact .inl rfl
      · cases (exec_dAeBad hmode hsync h00 h01).symm.trans h
        exact .inr (.inl (s.raise_eq .pvEscape s.lead).symm)

/-- R99, R100, R104: `r` holds the registers of `s` after a raw byte of the run with lead byte `a`, before the row asks
whether the run is complete. Where no flag is set, the byte has appended one byte and taken one unit of the counter. -/
structure State.ReadsRunByte (s r : State) (a : Byte) (p q : List Byte) : Prop where
  mode_eq : r.mode = s.mode
  ml_eq : r.ml = s.ml
  buf_before : s.buf = a :: p
  buf_after : r.buf = a :: q
  clean : r.syncSeen = false → r.badEsc = false → s.badEsc = false ∧ q.length = p.length + 1 ∧ r.rem = s.rem - 1

/-- R107: what a byte or the end of the stream can do in `LENGTH` mode. -/
theorem exec_rowFor_length_cases {s u : State} {ev : InputEvent} (hmode : s.mode = .length)
    (h : exec (s.rowFor ev) s = .next u) :
    u.out = .none ∨ u = s.raise .pvEscape none ∨ (∃ a, u = s.leadAccept a) ∨
    ∃ r a p q, u = r.completeIfDone ∧ s.ReadsRunByte r a p q := by
  rw [State.rowFor, hmode] at h
  cases ev with
  | eos =>
    cases (exec_lEos hmode).symm.trans h
    exact .inl rfl
  | byte b =>
    simp only [transitionRow] at h
    cases hsync : s.sync with
    | seekingStart =>
      left
      simp only [lengthRow, hsync] at h
      split_ifs at h with hstart
      · cases (exec_lSeekStart hmode hsync).symm.trans h; rfl
      · cases (exec_lSeekOther hmode hsync hstart).symm.trans h; rfl
    | inFrame =>
      cases hbuf : s.buf with
      | nil =>
        simp only [lengthRow, hsync, hbuf, List.isEmpty_nil, if_true] at h
        split_ifs at h with hstart hescape
        · cases (exec_lLeadStart hmode hsync hbuf).symm.trans h
          exact .inl rfl
        · cases (exec_lLeadEsc hmode hsync hbuf).symm.trans h
          exact .inl rfl
        · cases (exec_lLeadData hmode hsync hbuf hescape hstart).symm.trans h
          exact .inr (.inr (.inl ⟨b, rfl⟩))
      | cons a p =>
        simp only [lengthRow, hsync, hbuf, List.isEmpty_cons, Bool.false_eq_true, if_false] at h
        split_ifs at h with hstart hescape
        · cases (exec_lRunStart hmode hbuf hsync).symm.trans h
          exact .inr (.inr (.inr ⟨_, a, p, _, rfl, ⟨rfl, rfl, hbuf, rfl, nofun⟩⟩))
        · cases (exec_lRunEsc hmode hbuf hsync).symm.trans h
          exact .inl rfl
        · cases (exec_lRunData hmode hbuf hsync hescape hstart).symm.trans h
          exact .inr (.inr (.inr ⟨_, a, p, _, rfl,
            ⟨rfl, rfl, hbuf, rfl, fun _ hbad => ⟨hbad, List.length_append, rfl⟩⟩⟩))
    | afterEscape =>
      cases hbuf : s.buf with
      | nil =>
        simp only [lengthRow, hsync, hbuf, List.isEmpty_nil, if_true] at h
        split_ifs at h with hcode
        · cases (exec_lLeadescOk hmode hsync hbuf hcode).symm.trans h
          exact .inr (.inr (.inl ⟨_, rfl⟩))
        · obtain ⟨h00, h01⟩ := not_or.mp (mt (Wire.isCode_iff b).mpr hcode)
          cases (exec_lLeadescBad hmode hsync hbuf h00 h01).symm.trans h
          exact .inr (.inl (s.raise_eq .pvEscape none).symm)
      | cons a p =>
        simp only [lengthRow, hsync, hbuf, List.isEmpty_cons, Bool.false_eq_true, if_false] at h
        by_cases hcode : Wire.isCode b = true
        · cases (exec_lRunesc_of_isCode hmode hsync hbuf hcode).symm.trans h
          exact .inr (.inr (.inr ⟨_, a, p, _, rfl,
            ⟨rfl, rfl, hbuf, rfl, fun _ hbad => ⟨hbad, List.length_append, rfl⟩⟩⟩))
        · obtain ⟨h00, h01⟩ := not_or.mp (mt (Wire.isCode_iff b).mpr hcode)
          cases (exec_lRunesc_of_not_code hmode hsync hbuf h00 h01).symm.trans h
          exact .inr (.inr (.inr ⟨_, a, p, p, rfl, ⟨rfl, rfl, hbuf, hbuf, nofun⟩⟩))

end Sys2Proof.Machine
end

section
/-! PROOFS. What an error report does to the registers (60_exceptions.md R166): each way of producing one. -/

namespace Sys2Proof.Machine

/-- The column "`sync` after" of R166. -/
def syncAfterError (m : Mode) (code : ErrorCode) : Sync :=
  if m = .delim ∧ (code = .pvLength ∨ code = .unknownAddress) then .inFrame else .seekingStart

/-- R166, of the state after a step in mode `m`: if it presents an error report, the frame is dropped, `sync` is the
table's, and the error is one that the mode can have. -/
def State.DropsFrameOnError (m : Mode) (t : State) : Prop :=
  ∀ code lead, t.out = .err code lead →
    t.buf = [] ∧ t.countersClear ∧ t.sync = syncAfterError m code ∧
    (code = .pvLength → m = .delim) ∧ (code = .unexpectedSync → m = .length)

theorem State.dropsFrameOnError_of_none {m : Mode} {t : State} (hout : t.out = .none) : t.DropsFrameOnError m :=
  fun _ _ herr => nomatch hout.symm.trans herr

theorem State.dropsFrameOnError_of_cmd {m : Mode} {t : State} {c : Command} (hout : t.out = .cmd c) :
    t.DropsFrameOnError m :=
  fun _ _ herr => nomatch hout.symm.trans herr

/-- R161: a malformed escape sequence, in either mode. -/
theorem State.raise_pvEscape_dropsFrameOnError (m : Mode) (s : State) (lead : Option Byte) :
    (s.raise .pvEscape lead).DropsFrameOnError m := by
  intro code l herr
  cases herr
  exact ⟨rfl, ⟨rfl, rfl, rfl⟩, by simp [syncAfterError], nofun, nofun⟩

/-- R166: in `LENGTH` mode every error but a length error goes through the error entry. -/
theorem State.raise_dropsFrameOnError_length (s : State) {e : ErrorCode} (lead : Option Byte) (he : e ≠ .pvLength) :
    (s.raise e lead).DropsFrameOnError .length := by
  intro code l herr
  cases herr
  exact ⟨rfl, ⟨rfl, rfl, rfl⟩, rfl, fun h => absurd h he, fun _ => rfl⟩

/-- R98, R164: a lead byte is refused through the error entry or not at all, since a frame of length 0 has no payload
that could have the wrong length. -/
theorem State.leadAccept_dropsFrameOnError (s : State) (a : Byte) : (s.leadAccept a).DropsFrameOnError .length := by
  obtain ⟨-, hunknown⟩ | ⟨hzero, -⟩ | ⟨e, hsucc, -⟩ := leadAccept_cases s a
  · rw [hunknown]
    exact s.raise_dropsFrameOnError_length _ (by decide)
  · rw [State.leadAccept_of_zero hzero]
    exact State.dropsFrameOnError_of_cmd rfl
  · rw [State.leadAccept_of_succ hsucc]
    exact State.dropsFrameOnError_of_none rfl

/-- A frame whose payload has the expected length is delivered. -/
theorem dispatch_of_expectedLen {ml : Memory} {a : Byte} {p : List Byte} (h : expectedLen ml a = some p.length) :
    dispatch ml ⟨a, p⟩ = .cmd (commandOf ⟨a, p⟩) :=
  (checkedOutput_of_known p _ h).trans (if_pos rfl)

/-- R120: the error codes of `Dispatch`. -/
theorem dispatch_err {ml : Memory} {f : Frame} {code : ErrorCode} {lead : Option Byte}
    (h : dispatch ml f = .err code lead) : code = .pvLength ∨ code = .unknownAddress := by
  unfold dispatch at h
  obtain ⟨-, hout⟩ | ⟨_, -, -, hout⟩ | ⟨-, hout⟩ := checkedOutput_cases ml f.address f.payload (commandOf f) <;>
    cases hout.symm.trans h
  · exact .inr rfl
  · exact .inl rfl

/-- R105, R162: a run ends through the error entry or in a dispatch, which is no error where the run has delivered
the expected number of bytes. -/
theorem State.completeIfDone_dropsFrameOnError {r : State} {a : Byte} {q : List Byte} (hbuf : r.buf = a :: q)
    (hlen : r.rem = 0 → r.syncSeen = false → r.badEsc = false → expectedLen r.ml a = some q.length) :
    r.completeIfDone.DropsFrameOnError .length := by
  obtain ⟨hrem, hdone⟩ | ⟨-, hon⟩ := completeIfDone_cases r
  · rw [hdone]
    obtain ⟨-, hend⟩ | ⟨-, -, hend⟩ | ⟨hseen, hbad, hend⟩ := runComplete_cases hbuf <;> rw [hend]
    · exact r.raise_dropsFrameOnError_length _ (by decide)
    · exact r.raise_pvEscape_dropsFrameOnError _ _
    · exact State.dropsFrameOnError_of_cmd (dispatch_of_expectedLen (hlen hrem hseen hbad))
  · rw [hon]
    exact State.dropsFrameOnError_of_none rfl

/-- R24 items 4 and 5, at the last unit of a run without a bad escape: the frame lacks one byte. -/
theorem State.Invariant.expectedLen_of_last_unit {s : State} {a : Byte} {p : List Byte} (hinv : s.Invariant)
    (hmode : s.mode = .length) (hbuf : s.buf = a :: p) (hbad : s.badEsc = false) (hrem : s.rem - 1 = 0) :
    expectedLen s.ml a = some (p.length + 1) := by
  have hne : s.buf ≠ [] := hbuf ▸ List.cons_ne_nil a p
  obtain ⟨-, hrem_pos, -, -⟩ := hinv.run_open hmode hne
  have hcount := hinv.run_count hmode hne hbad
  have hlead : s.leadLength = (expectedLen s.ml a).getD 0 := by simp only [State.leadLength, hbuf]
  rw [hlead, hbuf, List.length_cons] at hcount
  cases hexp : expectedLen s.ml a with
  | none =>
    rw [hexp, Option.getD_none] at hcount
    omega
  | some n =>
    rw [hexp, Option.getD_some] at hcount
    exact congrArg some (by omega)

/-- R166 for every transition row of `DELIM` mode; R24 item 1 has the counter and the flags clear at the dispatch. -/
theorem exec_rowFor_delim_dropsFrameOnError {s u : State} {ev : InputEvent} (hinv : s.Invariant)
    (hmode : s.mode = .delim) (h : exec (s.rowFor ev) s = .next u) : u.DropsFrameOnError .delim := by
  obtain hnone | rfl | ⟨a, p, hsync, -, rfl⟩ := exec_rowFor_delim_cases hmode h
  · exact State.dropsFrameOnError_of_none hnone
  · exact s.raise_pvEscape_dropsFrameOnError _ _
  · intro code lead herr
    have hcode : code = .pvLength ∨ code = .unknownAddress := dispatch_err herr
    have hsync_after : syncAfterError .delim code = .inFrame := if_pos ⟨rfl, hcode⟩
    refine ⟨rfl, hinv.delim_clear hmode, hsync.trans hsync_after.symm, fun _ => rfl, ?_⟩
    rintro rfl
    exact absurd hcode (by decide)

/-- R166 for every transition row of `LENGTH` mode; R24 item 5 excludes a length error at the end of a run. -/
theorem exec_rowFor_length_dropsFrameOnError {s u : State} {ev : InputEvent} (hinv : s.Invariant)
    (hmode : s.mode = .length) (h : exec (s.rowFor ev) s = .next u) : u.DropsFrameOnError .length := by
  obtain hnone | rfl | ⟨a, rfl⟩ | ⟨r, a, p, q, rfl, hread⟩ := exec_rowFor_length_cases hmode h
  · exact State.dropsFrameOnError_of_none hnone
  · exact s.raise_pvEscape_dropsFrameOnError _ _
  · exact s.leadAccept_dropsFrameOnError a
  · refine State.completeIfDone_dropsFrameOnError hread.buf_after fun hrem hseen hbad => ?_
    obtain ⟨hbad_before, hlen, hrem_eq⟩ := hread.clean hseen hbad
    rw [hread.ml_eq, hlen]
    exact hinv.expectedLen_of_last_unit hmode hread.buf_before hbad_before (hrem_eq.symm.trans hrem)

/-- R166 for every step: an idle step reports nothing, and recording the event leaves the registers and the output. -/
theorem step_dropsFrameOnError {s t : State} (hinv : s.Invariant) (h : step s = .next t) :
    t.DropsFrameOnError s.mode := by
  obtain ⟨-, rfl⟩ | ⟨ev, rest, u, -, hexec, rfl⟩ := step_next h
  · exact State.dropsFrameOnError_of_none s.idle_out
  · show u.DropsFrameOnError s.mode
    cases hmode : s.mode with
    | delim => exact exec_rowFor_delim_dropsFrameOnError hinv hmode hexec
    | length => exact exec_rowFor_length_dropsFrameOnError hinv hmode hexec

/-- Settles O47, which is `step_dropsFrameOnError` read at the report of the step. -/
theorem errorDropsFrameAndResynchronises : Obligations.ErrorDropsFrameAndResynchronises := by
  unfold Obligations.ErrorDropsFrameAndResynchronises
  intro s t code lead hinv hstep hout
  obtain ⟨hbuf, ⟨hrem, hseen, hbad⟩, hsync, hlength, hunexpected⟩ := step_dropsFrameOnError hinv hstep code lead hout
  exact ⟨hbuf, hrem, hseen, hbad, hsync, hlength, hunexpected⟩

end Sys2Proof.Machine
end

section
/-! PROOFS. The transition tables of the two modes as one relation (10_state.md R22, 40_framing_delimiter_mode.md R80,
41_framing_length_mode.md R107): what a state does with an input event, the rows of one effect taken together. -/

namespace Sys2Proof

theorem Wire.ne_of_not_isCode {b : Byte} (hcode : Wire.isCode b = false) : b ≠ 0x00#8 ∧ b ≠ 0x01#8 :=
  not_or.mp (mt (Wire.isCode_iff b).mpr (Bool.eq_false_iff.mp hcode))

theorem Mode.delim_or_length (m : Mode) : m = .delim ∨ m = .length := by
  cases m <;> simp

namespace Machine

/-- `s.Takes ev t`: in `s` the event `ev` leads to `t`, before the event is recorded as consumed. -/
inductive State.Takes (s : State) : InputEvent → State → Prop
  /-- R81, R106. -/
  | eos :
    s.Takes .eos
      { s with sync := .seekingStart, buf := [], rem := 0, syncSeen := false, badEsc := false, out := .none }
  /-- R72, R94. -/
  | discard {b : Byte} (hsync : s.sync = .seekingStart) (h55 : b ≠ 0x55#8) : s.Takes (.byte b) { s with out := .none }
  /-- R71. -/
  | openDelim {b : Byte} (hmode : s.mode = .delim) (hsync : s.sync = .seekingStart) (hb : b = 0x55#8) :
    s.Takes (.byte b) { s with sync := .inFrame, buf := [], out := .none }
  /-- R93. -/
  | openLength {b : Byte} (hmode : s.mode = .length) (hsync : s.sync = .seekingStart) (hb : b = 0x55#8) :
    s.Takes (.byte b)
      { s with sync := .inFrame, buf := [], rem := 0, syncSeen := false, badEsc := false, out := .none }
  /-- R73, R96, R101. -/
  | escape {b : Byte} (hsync : s.sync = .inFrame) (hb : b = 0x54#8) :
    s.Takes (.byte b) { s with sync := .afterEscape, out := .none }
  /-- R75, R95. -/
  | fill {b : Byte} (hsync : s.sync = .inFrame) (hbuf : s.buf = []) (hb : b = 0x55#8) :
    s.Takes (.byte b) { s with out := .none }
  /-- R74. -/
  | close {b a : Byte} {p : List Byte} (hmode : s.mode = .delim) (hsync : s.sync = .inFrame) (hbuf : s.buf = a :: p)
      (hb : b = 0x55#8) :
    s.Takes (.byte b) { s with buf := [], out := dispatch s.ml ⟨a, p⟩ }
  /-- R76. -/
  | append {b : Byte} (hmode : s.mode = .delim) (hsync : s.sync = .inFrame) (h54 : b ≠ 0x54#8) (h55 : b ≠ 0x55#8) :
    s.Takes (.byte b) { s with buf := s.buf ++ [b], out := .none }
  /-- R77, R78. -/
  | appendCode {b : Byte} (hmode : s.mode = .delim) (hsync : s.sync = .afterEscape) (hcode : Wire.isCode b = true) :
    s.Takes (.byte b) { s with sync := .inFrame, buf := s.buf ++ [unesc b], out := .none }
  /-- R79, R103. -/
  | badEscape {b : Byte} (hplace : s.mode = .delim ∨ s.buf = []) (hsync : s.sync = .afterEscape)
      (hcode : Wire.isCode b = false) :
    s.Takes (.byte b)
      { s with sync := .seekingStart, buf := [], rem := 0, syncSeen := false, badEsc := false,
               out := .err .pvEscape s.buf.head? }
  /-- R97. -/
  | lead {b : Byte} (hmode : s.mode = .length) (hsync : s.sync = .inFrame) (hbuf : s.buf = []) (h54 : b ≠ 0x54#8)
      (h55 : b ≠ 0x55#8) :
    s.Takes (.byte b) (s.leadAccept b)
  /-- R102. -/
  | leadCode {b : Byte} (hmode : s.mode = .length) (hsync : s.sync = .afterEscape) (hbuf : s.buf = [])
      (hcode : Wire.isCode b = true) :
    s.Takes (.byte b) (s.leadAccept (unesc b))
  /-- R99, R100. -/
  | runByte {b a : Byte} {p : List Byte} (hmode : s.mode = .length) (hsync : s.sync = .inFrame)
      (hbuf : s.buf = a :: p) (h54 : b ≠ 0x54#8) :
    s.Takes (.byte b)
      ({ s with buf := a :: p ++ [b], syncSeen := syncSeenAfter s.syncSeen b, rem := s.rem - 1 } : State).completeIfDone
  /-- R104. -/
  | runCode {b a : Byte} {p : List Byte} (hmode : s.mode = .length) (hsync : s.sync = .afterEscape)
      (hbuf : s.buf = a :: p) :
    s.Takes (.byte b)
      ({ s with sync := .inFrame, buf := a :: p ++ literalOf b, syncSeen := syncSeenAfter s.syncSeen b,
                badEsc := badEscAfter s.badEsc b, rem := remAfter s.rem b } : State).completeIfDone

/-- R70: the row for a byte in `DELIM` mode. -/
theorem State.rowFor_byte_delim {s : State} (hmode : s.mode = .delim) (b : Byte) :
    s.rowFor (.byte b) = delimRow s.sync s.buf.isEmpty b := by
  rw [State.rowFor, hmode]; rfl

/-- R70: the row for a byte in `LENGTH` mode. -/
theorem State.rowFor_byte_length {s : State} (hmode : s.mode = .length) (b : Byte) :
    s.rowFor (.byte b) = lengthRow s.sync s.buf.isEmpty b := by
  rw [State.rowFor, hmode]; rfl

/-- R80, the row for a byte where the buffer and the sequencing state are known. -/
theorem exec_rowFor_of_delimRow {s t : State} {b : Byte} {q : Sync} {i : Instr} (hmode : s.mode = .delim)
    (hsync : s.sync = q) (hrow : delimRow q s.buf.isEmpty b = i) (h : exec i s = .next t) :
    exec (s.rowFor (.byte b)) s = .next t := by
  rw [State.rowFor_byte_delim hmode, hsync, hrow, h]

/-- R107, the same in `LENGTH` mode. -/
theorem exec_rowFor_of_lengthRow {s t : State} {b : Byte} {q : Sync} {i : Instr} (hmode : s.mode = .length)
    (hsync : s.sync = q) (hrow : lengthRow q s.buf.isEmpty b = i) (h : exec i s = .next t) :
    exec (s.rowFor (.byte b)) s = .next t := by
  rw [State.rowFor_byte_length hmode, hsync, hrow, h]

/-- Each way of taking an event is the meaning of the row that applies. -/
theorem State.Takes.exec_rowFor {s t : State} {ev : InputEvent} (h : s.Takes ev t) :
    exec (s.rowFor ev) s = .next t := by
  cases h with
  | eos =>
    cases hmode : s.mode with
    | delim => rw [State.rowFor, hmode]; exact (exec_dEos hmode).trans (by rw [hmode])
    | length => rw [State.rowFor, hmode]; exact (exec_lEos hmode).trans (by rw [hmode])
  | discard hsync h55 =>
    obtain hmode | hmode := s.mode.delim_or_length
    · exact exec_rowFor_of_delimRow hmode hsync (if_neg h55) (exec_dSeekOther hmode hsync h55)
    · exact exec_rowFor_of_lengthRow hmode hsync (if_neg h55) (exec_lSeekOther hmode hsync h55)
  | openDelim hmode hsync hb =>
    exact exec_rowFor_of_delimRow hmode hsync (if_pos hb) (exec_dSeekStart hmode hsync)
  | openLength hmode hsync hb =>
    exact exec_rowFor_of_lengthRow hmode hsync (if_pos hb) (exec_lSeekStart hmode hsync)
  | escape hsync hb =>
    subst hb
    obtain hmode | hmode := s.mode.delim_or_length
    · exact exec_rowFor_of_delimRow hmode hsync rfl (exec_dInEsc hmode hsync)
    · cases hbuf : s.buf with
      | nil =>
        exact exec_rowFor_of_lengthRow hmode hsync (by rw [hbuf]; rfl)
          ((exec_lLeadEsc hmode hsync hbuf).trans (by rw [hbuf]))
      | cons a p =>
        exact exec_rowFor_of_lengthRow hmode hsync (by rw [hbuf]; rfl)
          ((exec_lRunEsc hmode hbuf hsync).trans (by rw [hbuf]))
  | fill hsync hbuf hb =>
    subst hb
    obtain hmode | hmode := s.mode.delim_or_length
    · exact exec_rowFor_of_delimRow hmode hsync (by rw [hbuf]; rfl) (exec_dInStartEmpty hmode hsync hbuf)
    · exact exec_rowFor_of_lengthRow hmode hsync (by rw [hbuf]; rfl) (exec_lLeadStart hmode hsync hbuf)
  | close hmode hsync hbuf hb =>
    subst hb
    exact exec_rowFor_of_delimRow hmode hsync (by rw [hbuf]; rfl) (exec_dInStartFrame hmode hsync hbuf)
  | append hmode hsync h54 h55 =>
    exact exec_rowFor_of_delimRow hmode hsync ((if_neg h54).trans (if_neg h55)) (exec_dInData hmode hsync h54 h55)
  | appendCode hmode hsync hcode =>
    obtain rfl | rfl := (Wire.isCode_iff _).mp hcode
    · exact exec_rowFor_of_delimRow hmode hsync rfl (exec_dAeCode0 hmode hsync)
    · exact exec_rowFor_of_delimRow hmode hsync rfl (exec_dAeCode1 hmode hsync)
  | @badEscape b hplace hsync hcode =>
    obtain ⟨h00, h01⟩ := Wire.ne_of_not_isCode hcode
    obtain hmode | hmode := s.mode.delim_or_length
    · exact exec_rowFor_of_delimRow hmode hsync ((if_neg h00).trans (if_neg h01)) (exec_dAeBad hmode hsync h00 h01)
    · have hbuf : s.buf = [] := hplace.resolve_left (by rw [hmode]; decide)
      refine exec_rowFor_of_lengthRow hmode hsync (i := .lLeadescBad b) (by simp [lengthRow, hbuf, hcode]) ?_
      rw [exec_lLeadescBad hmode hsync hbuf h00 h01, hbuf, List.head?_nil]
  | @lead b hmode hsync hbuf h54 h55 =>
    have hrow : lengthRow .inFrame s.buf.isEmpty b = .lLeadData b := by
      simp only [lengthRow, hbuf, List.isEmpty_nil, if_true]; exact (if_neg h55).trans (if_neg h54)
    exact exec_rowFor_of_lengthRow hmode hsync hrow (exec_lLeadData hmode hsync hbuf h54 h55)
  | leadCode hmode hsync hbuf hcode =>
    exact exec_rowFor_of_lengthRow hmode hsync (by simp [lengthRow, hbuf, hcode])
      (exec_lLeadescOk hmode hsync hbuf hcode)
  | @runByte b a p hmode hsync hbuf h54 =>
    by_cases h55 : b = 0x55#8
    · subst h55
      have hseen : syncSeenAfter s.syncSeen 0x55#8 = true := (syncSeenAfter_iff _ _).mpr (.inr rfl)
      rw [hseen]
      exact exec_rowFor_of_lengthRow hmode hsync (by rw [hbuf]; rfl) (exec_lRunStart hmode hbuf hsync)
    · have hrow : lengthRow .inFrame s.buf.isEmpty b = .lRunData b := by
        simp only [lengthRow, hbuf, List.isEmpty_cons, Bool.false_eq_true, if_false]
        exact (if_neg h55).trans (if_neg h54)
      rw [syncSeenAfter_of_ne _ h55]
      exact exec_rowFor_of_lengthRow hmode hsync hrow (exec_lRunData hmode hbuf hsync h54 h55)
  | runCode hmode hsync hbuf =>
    exact exec_rowFor_of_lengthRow hmode hsync (by simp [lengthRow, hbuf]) (exec_lRunesc hmode hbuf _ hsync)

/-- R22: every state takes every event. -/
theorem State.exists_takes (s : State) (ev : InputEvent) : ∃ t, s.Takes ev t := by
  cases ev with
  | eos => exact ⟨_, .eos⟩
  | byte b =>
    cases hsync : s.sync with
    | seekingStart =>
      by_cases h55 : b = 0x55#8
      · cases hmode : s.mode with
        | delim => exact ⟨_, .openDelim hmode hsync h55⟩
        | length => exact ⟨_, .openLength hmode hsync h55⟩
      · exact ⟨_, .discard hsync h55⟩
    | inFrame =>
      by_cases h54 : b = 0x54#8
      · exact ⟨_, .escape hsync h54⟩
      cases hbuf : s.buf with
      | nil =>
        by_cases h55 : b = 0x55#8
        · exact ⟨_, .fill hsync hbuf h55⟩
        cases hmode : s.mode with
        | delim => exact ⟨_, .append hmode hsync h54 h55⟩
        | length => exact ⟨_, .lead hmode hsync hbuf h54 h55⟩
      | cons a p =>
        cases hmode : s.mode with
        | delim =>
          by_cases h55 : b = 0x55#8
          · exact ⟨_, .close hmode hsync hbuf h55⟩
          · exact ⟨_, .append hmode hsync h54 h55⟩
        | length => exact ⟨_, .runByte hmode hsync hbuf h54⟩
    | afterEscape =>
      cases hmode : s.mode with
      | delim =>
        cases hcode : Wire.isCode b with
        | true => exact ⟨_, .appendCode hmode hsync hcode⟩
        | false => exact ⟨_, .badEscape (.inl hmode) hsync hcode⟩
      | length =>
        cases hbuf : s.buf with
        | cons a p => exact ⟨_, .runCode hmode hsync hbuf⟩
        | nil =>
          cases hcode : Wire.isCode b with
          | true => exact ⟨_, .leadCode hmode hsync hbuf hcode⟩
          | false => exact ⟨_, .badEscape (.inr hbuf) hsync hcode⟩

/-- R22: the relation is the meaning of the row that applies, which is total and deterministic. -/
theorem exec_rowFor_iff {s t : State} {ev : InputEvent} : exec (s.rowFor ev) s = .next t ↔ s.Takes ev t := by
  refine ⟨fun h => ?_, State.Takes.exec_rowFor⟩
  obtain ⟨u, hu⟩ := s.exists_takes ev
  cases hu.exec_rowFor.symm.trans h
  exact hu

/-- R22, R33: a step with an event waiting takes it and records it as consumed. -/
theorem State.Takes.step_eq {s t : State} {ev : InputEvent} {rest : List InputEvent} (h : s.Takes ev t)
    (hinput : s.input = ev :: rest) : step s = .next (t.retire rest) := by
  simp only [step, hinput, h.exec_rowFor]

theorem step_eq_idle {s : State} (hinput : s.input = []) : step s = .next s.idle := by
  simp only [step, hinput]

/-- Everything one step can do. -/
theorem step_takes {s t : State} (h : step s = .next t) :
    (s.input = [] ∧ t = s.idle) ∨
    (∃ ev rest u, s.input = ev :: rest ∧ s.Takes ev u ∧ t = u.retire rest) := by
  obtain hidle | ⟨ev, rest, u, hinput, hexec, ht⟩ := step_next h
  · exact .inl hidle
  · exact .inr ⟨ev, rest, u, hinput, exec_rowFor_iff.mp hexec, ht⟩

end Machine

end Sys2Proof
end

section
/-! PROOFS. What taking an event does with the rest of the state: it keeps the configuration and the input side, and
reads of the former only the expected lengths (10_state.md R16 to R18, 20_memory.md R38). -/

namespace Sys2Proof.Machine

/-- The configuration, the input side and the observation of `t` are those of `s`: what no row writes. -/
structure State.KeepsHostSide (s t : State) : Prop where
  mode_eq : t.mode = s.mode
  ml_eq : t.ml = s.ml
  input_eq : t.input = s.input
  pos_eq : t.pos = s.pos
  trace_eq : t.trace = s.trace

theorem State.leadAccept_keepsHostSide (s : State) (a : Byte) : s.KeepsHostSide (s.leadAccept a) := by
  obtain ⟨-, h⟩ | ⟨-, h⟩ | ⟨_, -, h⟩ := leadAccept_cases s a <;> rw [h] <;> exact ⟨rfl, rfl, rfl, rfl, rfl⟩

/-- R105 for any buffer: a run that ends is reported, or dispatched. -/
theorem State.runComplete_keepsHostSide (s : State) : s.KeepsHostSide s.runComplete := by
  unfold State.runComplete
  split
  · exact ⟨rfl, rfl, rfl, rfl, rfl⟩
  split
  · exact ⟨rfl, rfl, rfl, rfl, rfl⟩
  split <;> exact ⟨rfl, rfl, rfl, rfl, rfl⟩

theorem State.completeIfDone_keepsHostSide (s : State) : s.KeepsHostSide s.completeIfDone := by
  obtain ⟨-, h⟩ | ⟨-, h⟩ := completeIfDone_cases s <;> rw [h]
  · exact s.runComplete_keepsHostSide
  · exact ⟨rfl, rfl, rfl, rfl, rfl⟩

theorem State.Takes.keepsHostSide {s t : State} {ev : InputEvent} (h : s.Takes ev t) : s.KeepsHostSide t := by
  cases h with
  | lead | leadCode => exact s.leadAccept_keepsHostSide _
  | runByte | runCode =>
    obtain ⟨hmode, hml, hinput, hpos, htrace⟩ := State.completeIfDone_keepsHostSide _
    exact ⟨hmode, hml, hinput, hpos, htrace⟩
  | _ => exact ⟨rfl, rfl, rfl, rfl, rfl⟩

/-- The registers and the mode of `s` beside another table, output, input side and observation. -/
def State.withHost (s : State) (ml : Memory) (o : Output) (input : List InputEvent) (pos : Nat)
    (trace : List (Nat × Output)) : State :=
  { s with ml := ml, out := o, input := input, pos := pos, trace := trace }

/-- R120: `Dispatch` reads the table for the expected length only. -/
theorem dispatch_congr {ml ml' : Memory} (hlen : expectedLen ml' = expectedLen ml) (f : Frame) :
    dispatch ml' f = dispatch ml f := by
  simp only [dispatch, checkedOutput, hlen]

section
variable {s : State} {ml : Memory} (o : Output) (input : List InputEvent) (pos : Nat) (trace : List (Nat × Output))
  (hlen : expectedLen ml = expectedLen s.ml)
include hlen

theorem State.leadAccept_withHost (a : Byte) :
    (s.withHost ml o input pos trace).leadAccept a =
      (s.leadAccept a).withHost ml (s.leadAccept a).out input pos trace := by
  have hlen_a : expectedLen (s.withHost ml o input pos trace).ml a = expectedLen s.ml a := congrFun hlen a
  cases h : expectedLen s.ml a with
  | none => rw [State.leadAccept_of_unknown h, State.leadAccept_of_unknown (hlen_a.trans h)]; rfl
  | some n =>
    cases n with
    | zero => rw [State.leadAccept_of_zero h, State.leadAccept_of_zero (hlen_a.trans h)]; rfl
    | succ e => rw [State.leadAccept_of_succ h, State.leadAccept_of_succ (hlen_a.trans h)]; rfl

theorem State.runComplete_withHost :
    (s.withHost ml o input pos trace).runComplete =
      s.runComplete.withHost ml s.runComplete.out input pos trace := by
  obtain ⟨sync, buf, rem, seen, bad, mode, _⟩ := s
  cases seen with
  | true => rfl
  | false =>
    cases bad with
    | true => rfl
    | false =>
      cases buf with
      | nil => rfl
      | cons a p => simp [State.runComplete, State.withHost, State.emit, dispatch_congr hlen]

theorem State.completeIfDone_withHost :
    (s.withHost ml o input pos trace).completeIfDone =
      s.completeIfDone.withHost ml s.completeIfDone.out input pos trace := by
  by_cases hrem : s.rem = 0
  · rw [State.completeIfDone_of_rem_zero hrem, State.completeIfDone_of_rem_zero (by exact hrem),
      State.runComplete_withHost o input pos trace hlen]
  · rw [State.completeIfDone_of_rem_ne hrem, State.completeIfDone_of_rem_ne (by exact hrem)]; rfl

/-- R38, R35: the registers, the mode, the expected lengths and the event decide what taking it does. -/
theorem State.Takes.withHost {t : State} {ev : InputEvent} (h : s.Takes ev t) :
    (s.withHost ml o input pos trace).Takes ev (t.withHost ml t.out input pos trace) := by
  cases h with
  | eos => exact .eos
  | discard hsync h55 => exact .discard hsync h55
  | openDelim hmode hsync hb => exact .openDelim hmode hsync hb
  | openLength hmode hsync hb => exact .openLength hmode hsync hb
  | escape hsync hb => exact .escape hsync hb
  | fill hsync hbuf hb => exact .fill hsync hbuf hb
  | close hmode hsync hbuf hb => rw [← dispatch_congr hlen]; exact .close hmode hsync hbuf hb
  | append hmode hsync h54 h55 => exact .append hmode hsync h54 h55
  | appendCode hmode hsync hcode => exact .appendCode hmode hsync hcode
  | badEscape hplace hsync hcode => exact .badEscape hplace hsync hcode
  | lead hmode hsync hbuf h54 h55 =>
    rw [← State.leadAccept_withHost o input pos trace hlen]; exact .lead hmode hsync hbuf h54 h55
  | leadCode hmode hsync hbuf hcode =>
    rw [← State.leadAccept_withHost o input pos trace hlen]; exact .leadCode hmode hsync hbuf hcode
  | runByte hmode hsync hbuf h54 =>
    rw [← State.completeIfDone_withHost o input pos trace (by exact hlen)]; exact .runByte hmode hsync hbuf h54
  | runCode hmode hsync hbuf =>
    rw [← State.completeIfDone_withHost o input pos trace (by exact hlen)]; exact .runCode hmode hsync hbuf

end

/-- The registers and the configuration of `s` beside another output, input side and observation. -/
def State.onStream (s : State) (o : Output) (input : List InputEvent) (pos : Nat) (trace : List (Nat × Output)) :
    State :=
  { s with out := o, input := input, pos := pos, trace := trace }

/-- R38: taking an event has the same effect wherever in whatever stream it stands. -/
theorem State.Takes.onStream {s t : State} {ev : InputEvent} (h : s.Takes ev t) (o : Output) (input : List InputEvent)
    (pos : Nat) (trace : List (Nat × Output)) :
    (s.onStream o input pos trace).Takes ev (t.onStream t.out input pos trace) := by
  have hml : t.withHost s.ml t.out input pos trace = t.onStream t.out input pos trace := by
    rw [State.withHost, ← h.keepsHostSide.ml_eq]; rfl
  exact hml ▸ h.withHost o input pos trace rfl

end Sys2Proof.Machine
end

section
/-! PROOFS. What every step keeps, consumes and depends on (10_state.md R16 to R18, R20 to R22, 20_memory.md R35,
R38). -/

namespace Sys2Proof.Machine

theorem observation_eq_ite (pos : Nat) (o : Output) :
    observation pos o = if o = .none then [] else [(pos, o)] := by
  cases o <;> simp [observation]

/-- R90: tables that agree on the module addresses give every lead byte the same expected length. -/
theorem expectedLen_eq_of_modules_agree {ml ml' : Memory}
    (h : ∀ a : Byte, a ≠ 0xFF#8 → a ≠ 0x01#8 → a ≠ 0x02#8 → a ≠ 0x03#8 → a ≠ 0xFE#8 → ml'.read a = ml.read a) :
    expectedLen ml' = expectedLen ml := by
  funext a
  cases hfixed : Wire.fixedLength a with
  | some n => rw [expectedLen_of_fixedLength ml' hfixed, expectedLen_of_fixedLength ml hfixed]
  | none =>
    have hmodule : Wire.isModule a = true := Option.isNone_iff_eq_none.mpr hfixed
    obtain ⟨hFF, h01, h02, h03, hFE⟩ := (Wire.isModule_iff a).mp hmodule
    rw [expectedLen_of_isModule ml' hmodule, expectedLen_of_isModule ml hmodule, h a hFF h01 h02 h03 hFE]

/-- Settles O3: the end of the stream is taken alike in every state, and leaves the registers as a reset does. -/
theorem endOfStreamStepEqualsReset : Obligations.EndOfStreamStepEqualsReset := by
  unfold Obligations.EndOfStreamStepEqualsReset
  intro s rest hinput
  have hobservation : s.trace ++ observation s.pos .none = s.trace := List.append_nil _
  rw [State.Takes.eos.step_eq hinput, State.hostReset_eq, State.retire, hobservation]

/-- Settles O39: what decodes in the machine's mode and state is the row that the step selects. -/
theorem stepRunsTheDecodedRow : Obligations.StepRunsTheDecodedRow := by
  unfold Obligations.StepRunsTheDecodedRow
  intro s t ev rest i hinput hdecode _ hexec
  have hrow : s.rowFor ev = i := Except.ok.inj hdecode
  have htakes : s.Takes ev t := exec_rowFor_iff.mp (hrow ▸ hexec)
  rw [htakes.step_eq hinput, State.retire, observation_eq_ite]

/-- Settles O40: an event waiting is taken and recorded; without one the step is idle. -/
theorem stepIsTotalAndConsumesOneEvent : Obligations.StepIsTotalAndConsumesOneEvent := by
  unfold Obligations.StepIsTotalAndConsumesOneEvent
  intro s
  cases hinput : s.input with
  | nil => exact ⟨s.idle, step_eq_idle hinput, nofun, fun _ => by rw [State.idle, State.quiet, State.emit, hinput]⟩
  | cons ev rest =>
    obtain ⟨t, ht⟩ := s.exists_takes ev
    obtain ⟨-, -, -, hpos, htrace⟩ := ht.keepsHostSide
    refine ⟨t.retire rest, ht.step_eq hinput, ?_, nofun⟩
    rintro _ _ ⟨rfl, rfl⟩
    exact ⟨rfl, congrArg (· + 1) hpos, by rw [State.retire_trace, htrace, hpos, observation_eq_ite]; rfl⟩

/-- Settles O41: the same event is taken with the same effect on another input side. -/
theorem stepDependsOnRegistersAndNextEventOnly : Obligations.StepDependsOnRegistersAndNextEventOnly := by
  unfold Obligations.StepDependsOnRegistersAndNextEventOnly
  intro s t ev rest rest' k tr o hinput hstep
  obtain ⟨hnil, -⟩ | ⟨ev', rest₀, u, hcons, htakes, rfl⟩ := step_takes hstep
  · exact nomatch hinput.symm.trans hnil
  · cases hinput.symm.trans hcons
    exact (htakes.onStream o (ev :: rest') k tr).step_eq rfl

/-- Settles O42: taking an event and recording it keep the configuration, and so does an idle step. -/
theorem stepKeepsConfiguration : Obligations.StepKeepsConfiguration := by
  unfold Obligations.StepKeepsConfiguration
  intro s t hstep
  obtain ⟨-, rfl⟩ | ⟨ev, rest, u, -, htakes, rfl⟩ := step_takes hstep
  · exact ⟨rfl, rfl⟩
  · exact ⟨htakes.keepsHostSide.mode_eq, htakes.keepsHostSide.ml_eq⟩

/-- Settles O43: the two tables give the same expected lengths, which is all that is read of them. -/
theorem reservedEntriesAreNeverRead : Obligations.ReservedEntriesAreNeverRead := by
  unfold Obligations.ReservedEntriesAreNeverRead
  intro s t ml hagree hstep
  have hlen : expectedLen ml = expectedLen s.ml := expectedLen_eq_of_modules_agree hagree
  obtain ⟨hinput, rfl⟩ | ⟨ev, rest, u, hinput, htakes, rfl⟩ := step_takes hstep
  · exact step_eq_idle hinput
  · obtain ⟨-, -, -, hpos, htrace⟩ := htakes.keepsHostSide
    rw [show { s with ml := ml } = s.withHost ml s.out s.input s.pos s.trace from rfl,
      (htakes.withHost s.out s.input s.pos s.trace hlen).step_eq hinput, ← hpos, ← htrace]
    rfl

end Sys2Proof.Machine
end

section
/-! PROOFS. The results of `Dispatch` and of a raw byte of a run, and where outputs come from
(40_framing_delimiter_mode.md R82, 41_framing_length_mode.md R105, 60_exceptions.md R160). -/

namespace Sys2Proof.Machine

/-- R120: a frame is delivered exactly when its payload has the expected length, as the command of its lead byte. -/
theorem dispatch_eq_cmd_iff {ml : Memory} {f : Frame} {c : Command} :
    dispatch ml f = .cmd c ↔ expectedLen ml f.address = some f.payload.length ∧ c = commandOf f := by
  constructor
  · intro h
    unfold dispatch at h
    obtain ⟨-, hout⟩ | ⟨_, -, -, hout⟩ | ⟨hlen, hout⟩ :=
      checkedOutput_cases ml f.address f.payload (commandOf f) <;> cases hout.symm.trans h
    exact ⟨hlen, rfl⟩
  · rintro ⟨hlen, rfl⟩
    exact dispatch_of_expectedLen hlen

/-- R160: `Dispatch` reports the address of the frame. -/
theorem dispatch_err_lead {ml : Memory} {f : Frame} {code : ErrorCode} {lead : Option Byte}
    (h : dispatch ml f = .err code lead) : lead = some f.address := by
  unfold dispatch at h
  obtain ⟨-, hout⟩ | ⟨_, -, -, hout⟩ | ⟨-, hout⟩ :=
    checkedOutput_cases ml f.address f.payload (commandOf f) <;> cases hout.symm.trans h <;> rfl

/-- R105, R107: after a raw byte the run goes on, ends in one of the two run errors, or is dispatched. -/
theorem State.completeIfDone_cases_of_cons {r : State} {a : Byte} {q : List Byte} (hbuf : r.buf = a :: q) :
    (r.rem ≠ 0 ∧ r.completeIfDone = { r with out := .none }) ∨
    (∃ code, (code = .unexpectedSync ∨ code = .pvEscape) ∧ r.completeIfDone = r.raise code (some a)) ∨
    (r.rem = 0 ∧ r.syncSeen = false ∧ r.badEsc = false ∧
      r.completeIfDone = { r with sync := .inFrame, buf := [], rem := 0, out := dispatch r.ml ⟨a, q⟩ }) := by
  obtain ⟨hrem, hdone⟩ | ⟨hrem, hon⟩ := completeIfDone_cases r
  · rw [hdone]
    obtain ⟨-, hend⟩ | ⟨-, -, hend⟩ | ⟨hseen, hbad, hend⟩ := runComplete_cases hbuf
    · exact .inr (.inl ⟨_, .inl rfl, hend⟩)
    · exact .inr (.inl ⟨_, .inr rfl, hend⟩)
    · exact .inr (.inr ⟨hrem, hseen, hbad, hend⟩)
  · exact .inl ⟨hrem, hon⟩

theorem State.completeIfDone_err_lead {r : State} {a : Byte} {q : List Byte} {code : ErrorCode} {lead : Option Byte}
    (hbuf : r.buf = a :: q) (hout : r.completeIfDone.out = .err code lead) : lead = some a := by
  obtain ⟨-, h⟩ | ⟨_, -, h⟩ | ⟨-, -, -, h⟩ := State.completeIfDone_cases_of_cons hbuf <;> rw [h] at hout
  · cases hout
  · cases hout; rfl
  · exact dispatch_err_lead hout

/-- R160: with a lead byte captured, every report names it. -/
theorem State.Takes.err_lead {s t : State} {ev : InputEvent} {a : Byte} {p : List Byte} {code : ErrorCode}
    {lead : Option Byte} (h : s.Takes ev t) (hs : s.buf = a :: p) (hout : t.out = .err code lead) :
    lead = some a := by
  cases h with
  | close _ _ hbuf =>
    cases hs.symm.trans hbuf
    exact dispatch_err_lead hout
  | badEscape =>
    cases hout
    rw [hs, List.head?_cons]
  | lead _ _ hbuf | leadCode _ _ hbuf => exact nomatch hs.symm.trans hbuf
  | runByte _ _ hbuf | runCode _ _ hbuf =>
    cases hs.symm.trans hbuf
    exact State.completeIfDone_err_lead rfl hout
  | _ => cases hout

/-- R82: an output of `DELIM` mode is an escape error after an `ESCAPE`, or a dispatch at a `START` in a frame. -/
theorem State.Takes.out_of_delim {s t : State} {ev : InputEvent} (h : s.Takes ev t) (hdelim : s.mode = .delim) :
    t.out = .none ∨
    (s.sync = .afterEscape ∧ ∃ lead, t.out = .err .pvEscape lead) ∨
    (s.sync = .inFrame ∧ ev = .byte 0x55#8 ∧ ∃ f, t.out = dispatch s.ml f) := by
  cases h with
  | close _ hsync _ hb => exact .inr (.inr ⟨hsync, congrArg _ hb, _, rfl⟩)
  | badEscape _ hsync => exact .inr (.inl ⟨hsync, _, rfl⟩)
  | lead hmode | leadCode hmode | runByte hmode | runCode hmode => exact nomatch hdelim.symm.trans hmode
  | _ => exact .inl rfl

/-- Settles O48: an idle step reports nothing, and a step that takes an event reports as that event does. -/
theorem errorReportsTheCapturedLeadByte : Obligations.ErrorReportsTheCapturedLeadByte := by
  unfold Obligations.ErrorReportsTheCapturedLeadByte
  intro s t code lead a p hbuf hstep hout
  obtain ⟨-, rfl⟩ | ⟨ev, rest, u, -, htakes, rfl⟩ := step_takes hstep
  · exact nomatch hout
  · exact htakes.err_lead hbuf hout

/-- Settles O9: `Takes.out_of_delim` read at each kind of output; a dispatch never reports the two run errors. -/
theorem delimOutputsComeOnlyFromTheirEvents : Obligations.DelimOutputsComeOnlyFromTheirEvents := by
  unfold Obligations.DelimOutputsComeOnlyFromTheirEvents
  intro s t hdelim hstep
  obtain ⟨-, rfl⟩ | ⟨ev, rest, u, hinput, htakes, rfl⟩ := step_takes hstep
  · exact ⟨nofun, nofun, nofun, nofun, nofun⟩
  rw [State.retire_out]
  obtain hnone | ⟨hsync, lead, herr⟩ | ⟨hsync, rfl, f, hdispatch⟩ := htakes.out_of_delim hdelim
  · rw [hnone]
    exact ⟨nofun, nofun, nofun, nofun, nofun⟩
  · rw [herr]
    exact ⟨nofun, nofun, nofun, fun _ _ => hsync, nofun⟩
  · have hstart : s.sync = .inFrame ∧ s.input.head? = some (.byte 0x55#8) := ⟨hsync, by rw [hinput, List.head?_cons]⟩
    rw [hdispatch]
    refine ⟨fun _ _ => hstart, fun _ _ => hstart, fun _ _ => hstart, fun _ h => ?_, fun _ h => ?_⟩
    · exact absurd (dispatch_err h) (by decide)
    · exact absurd (dispatch_err h) (by decide)

end Sys2Proof.Machine
end

section
/-! PROOFS. The invariants of reachable states (10_state.md R24): they hold after a reset and every step keeps them;
what they say of a completed run (41_framing_length_mode.md R105). -/

namespace Sys2Proof.Machine

/-- The shape of a reset, a seeking and a lead position. -/
theorem State.Invariant.of_clear {s : State} (hbuf : s.buf = []) (hclear : s.countersClear) : s.Invariant where
  delim_clear _ := hclear
  seeking_empty _ := ⟨hbuf, hclear⟩
  lead_clear _ _ := hclear
  run_open _ hne := absurd hbuf hne
  run_count _ hne := absurd hbuf hne

/-- The shape of a `DELIM` frame. -/
theorem State.Invariant.of_delim {s : State} (hmode : s.mode = .delim) (hclear : s.countersClear)
    (hsync : s.sync ≠ .seekingStart) : s.Invariant where
  delim_clear _ := hclear
  seeking_empty h := absurd h hsync
  lead_clear _ _ := hclear
  run_open h := nomatch hmode.symm.trans h
  run_count h := nomatch hmode.symm.trans h

/-- The shape of an open run. -/
theorem State.Invariant.of_run {s : State} (hmode : s.mode = .length) (hne : s.buf ≠ [])
    (hsync : s.sync ≠ .seekingStart) (hrem : 1 ≤ s.rem) (hle : s.rem ≤ s.leadLength)
    (hcount : s.badEsc = false → s.buf.length - 1 + s.rem = s.leadLength) : s.Invariant where
  delim_clear h := nomatch hmode.symm.trans h
  seeking_empty h := absurd h hsync
  lead_clear _ h := absurd h hne
  run_open _ _ := ⟨hsync, hrem, hrem.trans hle, hle⟩
  run_count _ _ := hcount

theorem State.leadLength_of_cons {s : State} {a : Byte} {p : List Byte} (hbuf : s.buf = a :: p) :
    s.leadLength = (expectedLen s.ml a).getD 0 := by
  simp only [State.leadLength, hbuf]

/-- The invariants say nothing of the output, the input side and the observation. -/
theorem State.Invariant.emit {s : State} (h : s.Invariant) (o : Output) : (s.emit o).Invariant :=
  ⟨h.delim_clear, h.seeking_empty, h.lead_clear, h.run_open, h.run_count⟩

theorem State.Invariant.retire {s : State} (h : s.Invariant) (rest : List InputEvent) : (s.retire rest).Invariant :=
  ⟨h.delim_clear, h.seeking_empty, h.lead_clear, h.run_open, h.run_count⟩

/-- R73, R96, R101: an `ESCAPE` moves `sync` within a frame. -/
theorem State.Invariant.afterEscape {s : State} (h : s.Invariant) :
    ({ s with sync := .afterEscape, out := .none } : State).Invariant where
  delim_clear := h.delim_clear
  seeking_empty := nofun
  lead_clear := h.lead_clear
  run_open hmode hne := ⟨nofun, (h.run_open hmode hne).2⟩
  run_count := h.run_count

theorem State.leadAccept_invariant {s : State} (hmode : s.mode = .length) (a : Byte) : (s.leadAccept a).Invariant := by
  obtain ⟨-, h⟩ | ⟨-, h⟩ | ⟨e, hlen, h⟩ := leadAccept_cases s a <;> rw [h]
  · exact .of_clear rfl ⟨rfl, rfl, rfl⟩
  · exact .of_clear rfl ⟨rfl, rfl, rfl⟩
  · have hlead :
        ({ s.clearFrame.quiet with sync := .inFrame, buf := [a], rem := e + 1 } : State).leadLength = e + 1 :=
      (State.leadLength_of_cons rfl).trans (congrArg (Option.getD · 0) hlen)
    exact .of_run hmode (List.cons_ne_nil _ _) nofun (Nat.le_add_left _ _) hlead.ge fun _ => by
      rw [hlead]; exact Nat.zero_add _

/-- R107: a raw byte that keeps the counter within its bounds and its count keeps the invariants, also where it ends the
run. -/
theorem State.completeIfDone_invariant {r : State} {a : Byte} {q : List Byte} (hmode : r.mode = .length)
    (hbuf : r.buf = a :: q) (hsync : r.sync = .inFrame) (hle : r.rem ≤ r.leadLength)
    (hcount : r.badEsc = false → q.length + r.rem = r.leadLength) : r.completeIfDone.Invariant := by
  obtain ⟨hrem, h⟩ | ⟨_, -, h⟩ | ⟨-, hseen, hbad, h⟩ := State.completeIfDone_cases_of_cons hbuf <;> rw [h]
  · have hrun : r.Invariant :=
      .of_run hmode (hbuf ▸ List.cons_ne_nil a q) (by rw [hsync]; nofun) (Nat.one_le_iff_ne_zero.mpr hrem) hle
        (by rw [hbuf]; exact hcount)
    exact hrun.emit .none
  · exact .of_clear rfl ⟨rfl, rfl, rfl⟩
  · exact .of_clear rfl ⟨rfl, hseen, hbad⟩

/-- R24 items 4 and 5, for an open run with its lead byte named. -/
theorem State.Invariant.run_bounds {s : State} {a : Byte} {p : List Byte} (hinv : s.Invariant)
    (hmode : s.mode = .length) (hbuf : s.buf = a :: p) :
    1 ≤ s.rem ∧ s.rem ≤ (expectedLen s.ml a).getD 0 ∧
      (s.badEsc = false → p.length + s.rem = (expectedLen s.ml a).getD 0) := by
  have hne : s.buf ≠ [] := hbuf ▸ List.cons_ne_nil a p
  obtain ⟨-, hrem, -, hle⟩ := hinv.run_open hmode hne
  have hcount := hinv.run_count hmode hne
  rw [State.leadLength_of_cons hbuf] at hle hcount
  rw [hbuf] at hcount
  exact ⟨hrem, hle, hcount⟩

/-- R101, R104: no raw byte adds to the counter, and an `ESCAPE` takes nothing from it. -/
theorem remAfter_le (n : Nat) (b : Byte) : remAfter n b ≤ n := by
  unfold remAfter
  split <;> omega

theorem literalOf_of_isCode {c : Byte} (hc : Wire.isCode c = true) : literalOf c = [unesc c] := if_pos hc

/-- R104: a code byte that leaves `bad_esc` clear delivers its literal and takes one unit. -/
theorem code_of_badEscAfter_eq_false {bad : Bool} {c : Byte} (h : badEscAfter bad c = false) :
    bad = false ∧ literalOf c = [unesc c] ∧ ∀ n, remAfter n c = n - 1 := by
  have hnot := mt (badEscAfter_iff bad c).mpr (Bool.eq_false_iff.mp h)
  rw [not_or, Bool.not_eq_true] at hnot
  obtain ⟨hbad, hcode⟩ := hnot
  have hc : Wire.isCode c = true := (Wire.isCode_iff c).mpr (by tauto)
  have h54 : c ≠ 0x54#8 := by
    rintro rfl
    exact nomatch hc
  exact ⟨hbad, literalOf_of_isCode hc, fun n => remAfter_of_ne n h54⟩

/-- R24: taking any event keeps the invariants. -/
theorem State.Takes.invariant {s t : State} {ev : InputEvent} (h : s.Takes ev t) (hinv : s.Invariant) :
    t.Invariant := by
  cases h with
  | eos | openLength | badEscape => exact .of_clear rfl ⟨rfl, rfl, rfl⟩
  | discard | fill => exact hinv.emit .none
  | openDelim hmode => exact .of_delim hmode (hinv.delim_clear hmode) nofun
  | escape => exact hinv.afterEscape
  | close hmode hsync | append hmode hsync =>
    exact .of_delim hmode (hinv.delim_clear hmode) (by rw [hsync]; nofun)
  | appendCode hmode => exact .of_delim hmode (hinv.delim_clear hmode) nofun
  | lead hmode | leadCode hmode => exact State.leadAccept_invariant hmode _
  | @runByte b a p hmode hsync hbuf h54 =>
    obtain ⟨hrem, hle, hcount⟩ := hinv.run_bounds hmode hbuf
    refine State.completeIfDone_invariant hmode rfl hsync ((Nat.sub_le _ _).trans hle) fun hbad => ?_
    calc (p ++ [b]).length + (s.rem - 1)
      _ = p.length + s.rem := by rw [List.length_append, List.length_singleton]; omega
      _ = (expectedLen s.ml a).getD 0 := hcount hbad
  | @runCode b a p hmode hsync hbuf =>
    obtain ⟨hrem, hle, hcount⟩ := hinv.run_bounds hmode hbuf
    refine State.completeIfDone_invariant hmode rfl rfl ((remAfter_le _ _).trans hle) fun hbad => ?_
    obtain ⟨hbad_before, hliteral, hunit⟩ := code_of_badEscAfter_eq_false hbad
    calc (p ++ literalOf b).length + remAfter s.rem b
      _ = p.length + s.rem := by rw [hliteral, hunit, List.length_append, List.length_singleton]; omega
      _ = (expectedLen s.ml a).getD 0 := hcount hbad_before

/-- Settles O44: an idle step changes the output only, and every other step takes an event and records it. -/
theorem invariantKeptByEveryStep : Obligations.InvariantKeptByEveryStep := by
  unfold Obligations.InvariantKeptByEveryStep
  intro s t hinv hstep
  obtain ⟨-, rfl⟩ | ⟨ev, rest, u, -, htakes, rfl⟩ := step_takes hstep
  · exact hinv.emit .none
  · exact (htakes.invariant hinv).retire rest

/-- Settles O45: after a reset the buffer is empty and the counters are clear. -/
theorem invariantAfterReset : Obligations.InvariantAfterReset := by
  unfold Obligations.InvariantAfterReset
  exact ⟨.of_clear rfl ⟨rfl, rfl, rfl⟩, fun _ _ _ => .of_clear rfl ⟨rfl, rfl, rfl⟩⟩

/-- Refutes O46: after the input `55 11 54 54` with `ML[0x11] = 1` the flag is set and the run still lacks its one byte
(log 11). -/
theorem not_badEscapeAlwaysShortensTheCount : ¬ Obligations.BadEscapeAlwaysShortensTheCount := by
  unfold Obligations.BadEscapeAlwaysShortensTheCount
  intro h
  have hshort := h [(0x11, 1)] [0x55#8, 0x11#8, 0x54#8, 0x54#8]
    { State.reset with mode := .length, ml := [(0x11, 1)], sync := .inFrame, buf := [0x11#8], rem := 1, badEsc := true,
                       pos := 4 } rfl nofun rfl
  exact absurd hshort (by decide)

/-- R99 to R101, R104: a byte taken inside a run either opens an escape or is counted; a counted byte that leaves
`bad_esc` clear has appended one value and taken one unit. -/
theorem State.Takes.cases_of_run {s t : State} {a b : Byte} {p : List Byte} (h : s.Takes (.byte b) t)
    (hlength : s.mode = .length) (hs : s.buf = a :: p) (hseek : s.sync ≠ .seekingStart) :
    t.buf = a :: p ∨
    ∃ (r : State) (q : List Byte), t = r.completeIfDone ∧ r.buf = a :: q ∧ r.ml = s.ml ∧
      (r.badEsc = false → s.badEsc = false ∧ r.rem = s.rem - 1 ∧ ∃ v, q = p ++ [v]) := by
  cases h with
  | discard hsync | openDelim _ hsync | openLength _ hsync => exact absurd hsync hseek
  | escape => exact .inl hs
  | fill _ hbuf | lead _ _ hbuf | leadCode _ _ hbuf => exact nomatch hs.symm.trans hbuf
  | close hmode | append hmode | appendCode hmode => exact nomatch hlength.symm.trans hmode
  | badEscape hplace =>
    obtain hmode | hbuf := hplace
    · exact nomatch hlength.symm.trans hmode
    · exact nomatch hs.symm.trans hbuf
  | runByte _ _ hbuf =>
    cases hs.symm.trans hbuf
    exact .inr ⟨_, _, rfl, rfl, rfl, fun hbad => ⟨hbad, rfl, _, rfl⟩⟩
  | runCode _ _ hbuf =>
    cases hs.symm.trans hbuf
    refine .inr ⟨_, _, rfl, rfl, rfl, fun hbad => ?_⟩
    obtain ⟨hbad_before, hliteral, hunit⟩ := code_of_badEscAfter_eq_false hbad
    exact ⟨hbad_before, hunit _, _, congrArg (p ++ ·) hliteral⟩

/-- Settles O16: the byte that empties the buffer is counted and ends the run; a run without an error has, by R24 item
5, delivered the expected number of bytes. -/
theorem completedRunIsCommandOrRunError : Obligations.CompletedRunIsCommandOrRunError := by
  unfold Obligations.CompletedRunIsCommandOrRunError
  intro s t a b p rest hinv hmode hbuf hinput hstep hdone
  have hseek : s.sync ≠ .seekingStart := (hinv.run_open hmode (hbuf ▸ List.cons_ne_nil a p)).1
  obtain ⟨hnil, -⟩ | ⟨ev, rest', u, hcons, htakes, rfl⟩ := step_takes hstep
  · exact nomatch hinput.symm.trans hnil
  cases hinput.symm.trans hcons
  rw [State.retire_buf] at hdone
  obtain hopen | ⟨r, q, rfl, hr, hml, hclean⟩ := htakes.cases_of_run hmode hbuf hseek
  · exact nomatch hopen.symm.trans hdone
  obtain ⟨-, h⟩ | ⟨code, hcode, h⟩ | ⟨hrem, -, hbad, h⟩ := State.completeIfDone_cases_of_cons hr
  · rw [h] at hdone
    exact nomatch hr.symm.trans hdone
  · right
    rw [State.retire_sync, State.retire_out, h]
    exact ⟨rfl, hcode.imp (by rintro rfl; rfl) (by rintro rfl; rfl)⟩
  · left
    obtain ⟨hbad_before, hrem_eq, v, rfl⟩ := hclean hbad
    have hlen : expectedLen s.ml a = some (p.length + 1) :=
      hinv.expectedLen_of_last_unit hmode hbuf hbad_before (hrem_eq.symm.trans hrem)
    have hdispatch : dispatch r.ml ⟨a, p ++ [v]⟩ = .cmd (commandOf ⟨a, p ++ [v]⟩) :=
      dispatch_of_expectedLen (by rw [hml, hlen, List.length_append, List.length_singleton])
    rw [State.retire_sync, State.retire_out, h]
    exact ⟨rfl, v, hdispatch, hlen⟩

end Sys2Proof.Machine
end

section
/-! PROOFS. Commands and their frames (42_command_dispatch.md R120, R129, R131, 43_encoder_reference.md R141 to R148):
the 16-bit fields are written and read back without loss, and a delivered command is its frame. -/

namespace Sys2Proof

theorem hiByte_toNat (v : Word16) : (hiByte v).toNat = v.toNat / 256 := by
  have hv : v.toNat < 2 ^ 16 := v.isLt
  rw [hiByte, BitVec.extractLsb'_toNat, Nat.shiftRight_eq_div_pow]
  omega

theorem loByte_toNat (v : Word16) : (loByte v).toNat = v.toNat % 256 := by
  rw [loByte, BitVec.extractLsb'_toNat, Nat.shiftRight_zero]

theorem hiByte_word16 (h l : Byte) : hiByte (word16 h l) = h := by
  have hl : l.toNat < 2 ^ 8 := l.isLt
  apply BitVec.eq_of_toNat_eq
  rw [hiByte_toNat, word16_toNat]
  omega

theorem loByte_word16 (h l : Byte) : loByte (word16 h l) = l := by
  have hl : l.toNat < 2 ^ 8 := l.isLt
  apply BitVec.eq_of_toNat_eq
  rw [loByte_toNat, word16_toNat]
  omega

theorem word16_hiByte_loByte (v : Word16) : word16 (hiByte v) (loByte v) = v := by
  apply BitVec.eq_of_toNat_eq
  rw [word16_toNat, hiByte_toNat, loByte_toNat]
  omega

/-- Settles O31. -/
theorem bigEndianPairing : Obligations.BigEndianPairing := by
  unfold Obligations.BigEndianPairing
  exact fun h l => ⟨word16_toNat h l, hiByte_word16 h l, loByte_word16 h l⟩

theorem frameRow_of_isModule {a : Byte} (p : List Byte) (h : Wire.isModule a = true) : frameRow a p = .setch a p := by
  obtain ⟨hFF, h01, h02, h03, hFE⟩ := (Wire.isModule_iff a).mp h
  simp only [frameRow, Wire.strobeHigh, Wire.opSetLed, Wire.opAuth, Wire.opHighRes, Wire.strobeBus, hFF, h01, h02, h03,
    hFE, if_false]

theorem exists_six_of_length {p : List Byte} (h : p.length = 6) : ∃ b₀ b₁ b₂ b₃ b₄ b₅, p = [b₀, b₁, b₂, b₃, b₄, b₅] :=
  match p, h with
  | [_, _, _, _, _, _], _ => ⟨_, _, _, _, _, _, rfl⟩

theorem exists_ten_of_length {p : List Byte} (h : p.length = 10) :
    ∃ b₀ b₁ b₂ b₃ b₄ b₅ b₆ b₇ b₈ b₉, p = [b₀, b₁, b₂, b₃, b₄, b₅, b₆, b₇, b₈, b₉] :=
  match p, h with
  | [_, _, _, _, _, _, _, _, _, _], _ => ⟨_, _, _, _, _, _, _, _, _, _, rfl⟩

/-- R55, R142: six payload bytes are rebuilt from their command. -/
theorem frameOf_setLedCommand {p : List Byte} (h : p.length = 6) : frameOf (setLedCommand p) = ⟨0x01#8, p⟩ := by
  obtain ⟨_, _, _, _, _, _, rfl⟩ := exists_six_of_length h
  rw [setLedCommand_bytes, frameOf, hiByte_word16, loByte_word16, Wire.opSetLed]

/-- R57, R143: so are ten. -/
theorem frameOf_highResCommand {p : List Byte} (h : p.length = 10) : frameOf (highResCommand p) = ⟨0x03#8, p⟩ := by
  obtain ⟨_, _, _, _, _, _, _, _, _, _, rfl⟩ := exists_ten_of_length h
  rw [highResCommand_bytes, frameOf]
  simp only [hiByte_word16, loByte_word16, Wire.opHighRes]

/-- The encoder's frame of the command of a frame of the expected length, by lead byte. -/
theorem frameOf_commandOf {ml : Memory} {a : Byte} {p : List Byte} (h : expectedLen ml a = some p.length) :
    frameOf (commandOf ⟨a, p⟩) = ⟨a, p⟩ ∧ representable ml (commandOf ⟨a, p⟩) = true := by
  have fixed {n : Nat} (hfixed : Wire.fixedLength a = some n) : p.length = n :=
    Option.some.inj (h.symm.trans (expectedLen_of_fixedLength ml hfixed))
  obtain rfl | rfl | rfl | rfl | rfl | hmodule := Wire.lead_cases a
  · cases List.length_eq_zero_iff.mp (fixed rfl)
    exact ⟨rfl, rfl⟩
  · exact ⟨frameOf_setLedCommand (fixed rfl), rfl⟩
  · exact ⟨rfl, beq_iff_eq.mpr (fixed rfl)⟩
  · exact ⟨frameOf_highResCommand (fixed rfl), rfl⟩
  · cases List.length_eq_zero_iff.mp (fixed rfl)
    exact ⟨rfl, rfl⟩
  · have hread : ml.read a = some p.length := (expectedLen_of_isModule ml hmodule).symm.trans h
    rw [commandOf_of_isModule p hmodule]
    exact ⟨rfl, Bool.and_eq_true_iff.mpr ⟨hmodule, beq_iff_eq.mpr hread⟩⟩

/-- R148: what makes a command representable, by its kind; then its frame has the expected length and is its own
command. -/
theorem commandOf_frameOf {ml : Memory} {c : Command} (h : representable ml c = true) :
    expectedLen ml (frameOf c).address = some (frameOf c).payload.length ∧ commandOf (frameOf c) = c := by
  cases c with
  | strobe lead =>
    obtain hlead | hlead := Bool.or_eq_true_iff.mp h <;> cases eq_of_beq hlead <;> exact ⟨rfl, rfl⟩
  | setLed led r g b a =>
    refine ⟨rfl, ?_⟩
    calc commandOf (frameOf (.setLed led r g b a))
      _ = .setLed (word16 (hiByte led) (loByte led)) r g b a := rfl
      _ = .setLed led r g b a := by rw [word16_hiByte_loByte]
  | authenticate token =>
    have hlen : token.length = 16 := eq_of_beq h
    exact ⟨congrArg some hlen.symm, rfl⟩
  | highResSetLed led r g b a =>
    refine ⟨rfl, ?_⟩
    calc commandOf (frameOf (.highResSetLed led r g b a))
      _ = .highResSetLed (word16 (hiByte led) (loByte led)) (word16 (hiByte r) (loByte r))
            (word16 (hiByte g) (loByte g)) (word16 (hiByte b) (loByte b)) (word16 (hiByte a) (loByte a)) := rfl
      _ = .highResSetLed led r g b a := by simp only [word16_hiByte_loByte]
  | setChannels a values =>
    obtain ⟨hmodule, hread⟩ := Bool.and_eq_true_iff.mp h
    exact ⟨(expectedLen_of_isModule ml hmodule).trans (eq_of_beq hread), commandOf_of_isModule values hmodule⟩

namespace Machine

/-- Settles O28: the row of the lead byte and the command of the lead byte are chosen alike. -/
theorem dispatchRunsTheFrameRow : Obligations.DispatchRunsTheFrameRow := by
  unfold Obligations.DispatchRunsTheFrameRow
  intro s a p
  obtain rfl | rfl | rfl | rfl | rfl | hmodule := Wire.lead_cases a
  case inr.inr.inr.inr.inr =>
    rw [frameRow_of_isModule p hmodule, exec_setch_of_isModule s p hmodule, dispatch, commandOf_of_isModule p hmodule]
  all_goals rfl

/-- Settles O32: a delivered command is `commandOf` its frame, which has the expected length. -/
theorem deliveredCommandRebuildsItsFrame : Obligations.DeliveredCommandRebuildsItsFrame := by
  unfold Obligations.DeliveredCommandRebuildsItsFrame
  intro ml f c h
  obtain ⟨hlen, rfl⟩ := dispatch_eq_cmd_iff.mp h
  exact frameOf_commandOf hlen

/-- Settles O33: the frame of a representable command has the expected length, and its command is that one. -/
theorem representableCommandDispatchesBack : Obligations.RepresentableCommandDispatchesBack := by
  unfold Obligations.RepresentableCommandDispatchesBack
  intro ml c h
  obtain ⟨hlen, hcommand⟩ := commandOf_frameOf h
  exact dispatch_eq_cmd_iff.mpr ⟨hlen, hcommand.symm⟩

/-- Settles O29: each of the six kinds of lead byte has its own command. -/
theorem shadowedAddressesNeverSetChannels : Obligations.ShadowedAddressesNeverSetChannels := by
  unfold Obligations.ShadowedAddressesNeverSetChannels
  intro ml a p c h
  obtain ⟨-, rfl⟩ := dispatch_eq_cmd_iff.mp h
  obtain rfl | rfl | rfl | rfl | rfl | hmodule := Wire.lead_cases a
  · rw [show commandOf ⟨0xFF#8, p⟩ = .strobe 0xFF#8 from rfl]
    simp
  · rw [show commandOf ⟨0x01#8, p⟩ = setLedCommand p from rfl, setLedCommand]
    simp
  · rw [show commandOf ⟨0x02#8, p⟩ = .authenticate p from rfl]
    simp
  · rw [show commandOf ⟨0x03#8, p⟩ = highResCommand p from rfl, highResCommand]
    simp
  · rw [show commandOf ⟨0xFE#8, p⟩ = .strobe 0xFE#8 from rfl]
    simp
  · obtain ⟨hFF, h01, h02, h03, hFE⟩ := (Wire.isModule_iff a).mp hmodule
    rw [commandOf_of_isModule p hmodule]
    simp [hFF, h01, h02, h03, hFE]

/-- Settles O30, by the six kinds of lead byte. -/
theorem rowSelectFollowsTheLeadByte : Obligations.RowSelectFollowsTheLeadByte := by
  unfold Obligations.RowSelectFollowsTheLeadByte
  intro ml a p c h
  obtain ⟨-, rfl⟩ := dispatch_eq_cmd_iff.mp h
  obtain rfl | rfl | rfl | rfl | rfl | hmodule := Wire.lead_cases a
  case inr.inr.inr.inr.inr =>
    obtain ⟨hFF, h01, h02, h03, hFE⟩ := (Wire.isModule_iff a).mp hmodule
    rw [commandOf_of_isModule p hmodule, if_neg hFF, if_neg h01, if_neg h02, if_neg h03, if_neg hFE]
    rfl
  all_goals rfl

end Machine

end Sys2Proof
end

section
/-! PROOFS. Escaping and unescaping a frame body are inverse (30_encoding.md R51, R52). -/

namespace Sys2Proof

/-- The raw bytes of unescaped bytes (R51, R140). -/
def escBytes (vs : List Byte) : List Byte := vs.flatMap escByte

@[simp] theorem escBytes_nil : escBytes [] = [] := rfl

@[simp] theorem escBytes_cons (v : Byte) (vs : List Byte) : escBytes (v :: vs) = escByte v ++ escBytes vs := rfl

theorem escByte_of_ne {v : Byte} (h54 : v ≠ 0x54#8) (h55 : v ≠ 0x55#8) : escByte v = [v] :=
  (if_neg h54).trans (if_neg h55)

/-- R53: the escape code of a valid pair is written back by the literal it stands for. -/
theorem escByte_unesc {c : Byte} (hc : Wire.isCode c = true) : escByte (unesc c) = [0x54#8, c] := by
  obtain rfl | rfl := (Wire.isCode_iff c).mp hc <;> rfl

/-- R51: a byte is written as itself, or as an escape pair of a code that stands for it. -/
theorem escByte_cases (v : Byte) :
    (v ≠ 0x54#8 ∧ v ≠ 0x55#8 ∧ escByte v = [v]) ∨
    (∃ c, Wire.isCode c = true ∧ unesc c = v ∧ escByte v = [0x54#8, c]) := by
  by_cases h54 : v = 0x54#8
  · exact .inr ⟨0x00#8, rfl, h54.symm, by rw [h54]; rfl⟩
  by_cases h55 : v = 0x55#8
  · exact .inr ⟨0x01#8, rfl, h55.symm, by rw [h55]; rfl⟩
  · exact .inl ⟨h54, h55, escByte_of_ne h54 h55⟩

/-- R51: a byte of neither reserved value stands for itself. -/
theorem unescapeBody_byte_of_ne {b : Byte} (h54 : b ≠ 0x54#8) (h55 : b ≠ 0x55#8) (bs : List Byte) :
    unescapeBody ((b :: bs).map .byte) = consUnescaped b (unescapeBody (bs.map .byte)) := by
  cases bs with
  | nil => simp [unescapeBody, consUnescaped, Wire.escape, Wire.start, h54, h55]
  | cons c bs => simp [unescapeBody, Wire.escape, Wire.start, h54, h55]

/-- R52, R53: a valid escape pair stands for its literal. -/
theorem unescapeBody_pair {c : Byte} (hc : Wire.isCode c = true) (evs : List InputEvent) :
    unescapeBody (.byte 0x54#8 :: .byte c :: evs) = consUnescaped (unesc c) (unescapeBody evs) := by
  simp [unescapeBody, Wire.escape, hc]

theorem unescapeBody_escBytes (vs : List Byte) : unescapeBody ((escBytes vs).map .byte) = .ok vs := by
  induction vs with
  | nil => rfl
  | cons v vs ih =>
    rw [escBytes_cons]
    obtain ⟨h54, h55, hself⟩ | ⟨c, hc, rfl, hpair⟩ := escByte_cases v
    · rw [hself, List.singleton_append, unescapeBody_byte_of_ne h54 h55, ih, consUnescaped]
    · rw [hpair, List.map_append, List.map_cons, List.map_singleton, List.cons_append, List.singleton_append,
        unescapeBody_pair hc, ih, consUnescaped]

theorem consUnescaped_eq_ok {v : Byte} {rest : Except DecodeError (List Byte)} {vs : List Byte}
    (h : consUnescaped v rest = .ok vs) : ∃ ws, rest = .ok ws ∧ vs = v :: ws := by
  cases rest with
  | error e => cases h
  | ok ws => exact ⟨ws, rfl, (Except.ok.inj h).symm⟩

/-- What could be unescaped is written back as the same events. -/
theorem escBytes_of_unescapeBody {evs : List InputEvent} {vs : List Byte} (h : unescapeBody evs = .ok vs) :
    (escBytes vs).map .byte = evs := by
  induction evs using unescapeBody.induct generalizing vs with
  | case1 => cases h; rfl
  | case2 => simp [unescapeBody] at h
  | case3 => simp [unescapeBody] at h
  | case4 => simp [unescapeBody, Wire.escape, Wire.start] at h
  | case5 b h54 h55 =>
    simp only [unescapeBody, h54, h55, if_false] at h
    cases h
    rw [escBytes_cons, escByte_of_ne h54 h55]
    rfl
  | case6 => simp [unescapeBody] at h
  | case7 b _ h55 => simp [unescapeBody, h55] at h
  | case8 c rest hc ih =>
    simp only [unescapeBody, hc, if_true] at h
    obtain ⟨ws, hrest, rfl⟩ := consUnescaped_eq_ok h
    rw [escBytes_cons, escByte_unesc hc, List.map_append, ih hrest]
    rfl
  | case9 c rest hc => simp [unescapeBody, hc] at h
  | case10 => simp [unescapeBody, Wire.escape, Wire.start] at h
  | case11 b c rest h54 h55 ih =>
    simp only [unescapeBody, h54, h55, if_false] at h
    obtain ⟨ws, hrest, rfl⟩ := consUnescaped_eq_ok h
    rw [escBytes_cons, escByte_of_ne h54 h55, List.map_append, ih hrest]
    rfl

end Sys2Proof
end

section
/-! PROOFS. Reading and writing instructions, format by format (30_encoding.md R50 to R64): what each row of a table is
written as, and what the selecting functions of the decoder can answer. -/

namespace Sys2Proof

theorem Wire.ne_of_bnot_isReserved {b : Byte} (h : (!Wire.isReserved b) = true) : b ≠ 0x54#8 ∧ b ≠ 0x55#8 :=
  not_or.mp (mt (Wire.isReserved_iff b).mpr (Bool.eq_false_iff.mp ((Bool.not_eq_true' _).mp h)))

theorem Wire.ne_of_bnot_isCode {b : Byte} (h : (!Wire.isCode b) = true) : b ≠ 0x00#8 ∧ b ≠ 0x01#8 :=
  Wire.ne_of_not_isCode ((Bool.not_eq_true' _).mp h)

theorem symbolClass_of_ne {b : Byte} (h00 : b ≠ 0x00#8) (h01 : b ≠ 0x01#8) (h54 : b ≠ 0x54#8) (h55 : b ≠ 0x55#8) :
    symbolClass b = .data b := by
  simp [symbolClass, Wire.start, Wire.escape, Wire.code0, Wire.code1, h00, h01, h54, h55]

/-- Every symbol row is the class of the byte it is written as. -/
theorem exists_byte_of_readIn_symbol {i : Instr} (hread : readIn i .symbol = true) (hwf : wellFormed i = true) :
    ∃ b, encode i = [.byte b] ∧ symbolClass b = i := by
  cases i with
  | start | escape | code0 | code1 => exact ⟨_, rfl, rfl⟩
  | data b =>
    obtain ⟨hcode, hreserved⟩ := Bool.and_eq_true_iff.mp hwf
    obtain ⟨h00, h01⟩ := Wire.ne_of_bnot_isCode hcode
    obtain ⟨h54, h55⟩ := Wire.ne_of_bnot_isReserved hreserved
    exact ⟨b, rfl, symbolClass_of_ne h00 h01 h54 h55⟩
  | _ => exact nomatch hread

/-- Every escape sequence is the pair of `ESCAPE` with the code it is written with. -/
theorem exists_code_of_readIn_escapeSequence {i : Instr} (hread : readIn i .escapeSequence = true)
    (hwf : wellFormed i = true) : ∃ c, encode i = [.byte 0x54#8, .byte c] ∧ escapePair c = i := by
  cases i with
  | esc54 | esc55 => exact ⟨_, rfl, rfl⟩
  | escBad c =>
    obtain ⟨h00, h01⟩ := Wire.ne_of_bnot_isCode hwf
    exact ⟨c, rfl, (if_neg h00).trans (if_neg h01)⟩
  | _ => exact nomatch hread

/-- Every frame row is the row of the lead byte it is written with. -/
theorem exists_frame_of_readIn_frame {i : Instr} (hread : readIn i .frame = true) (hwf : wellFormed i = true) :
    ∃ a p, encode i = (frameBytes a p).map .byte ∧ frameRow a p = i := by
  cases i with
  | strobeH p | setled p | auth p | hrsetled p | strobeB p => exact ⟨_, p, rfl, rfl⟩
  | setch a p => exact ⟨a, p, rfl, frameRow_of_isModule p hwf⟩
  | _ => exact nomatch hread

/-- Every transition row is the row that its mode and state select for the event it is written as. -/
theorem exists_event_of_readIn_transition {i : Instr} {m : Mode} {q : Sync} {e : Bool}
    (hread : readIn i (.transition m q e) = true) (hwf : wellFormed i = true) :
    ∃ ev, encode i = [ev] ∧ transitionRow m q e ev = i := by
  cases m with
  | delim =>
    cases q with
    | seekingStart =>
      cases i with
      | dSeekStart | dEos => exact ⟨_, rfl, rfl⟩
      | dSeekOther b => exact ⟨_, rfl, if_neg (bne_iff_ne.mp hwf)⟩
      | _ => exact nomatch hread
    | inFrame =>
      cases i with
      | dInEsc | dEos => exact ⟨_, rfl, rfl⟩
      | dInStartFrame =>
        cases e with
        | true => exact nomatch hread
        | false => exact ⟨_, rfl, rfl⟩
      | dInStartEmpty => exact ⟨_, rfl, if_pos hread⟩
      | dInData b =>
        obtain ⟨h54, h55⟩ := Wire.ne_of_bnot_isReserved hwf
        exact ⟨_, rfl, (if_neg h54).trans (if_neg h55)⟩
      | _ => exact nomatch hread
    | afterEscape =>
      cases i with
      | dAeCode0 | dAeCode1 | dEos => exact ⟨_, rfl, rfl⟩
      | dAeBad b =>
        obtain ⟨h00, h01⟩ := Wire.ne_of_bnot_isCode hwf
        exact ⟨_, rfl, (if_neg h00).trans (if_neg h01)⟩
      | _ => exact nomatch hread
  | length =>
    cases q with
    | seekingStart =>
      cases i with
      | lSeekStart | lEos => exact ⟨_, rfl, rfl⟩
      | lSeekOther b => exact ⟨_, rfl, if_neg (bne_iff_ne.mp hwf)⟩
      | _ => exact nomatch hread
    | inFrame =>
      cases e with
      | true =>
        cases i with
        | lLeadStart | lLeadEsc | lEos => exact ⟨_, rfl, rfl⟩
        | lLeadData b =>
          obtain ⟨h54, h55⟩ := Wire.ne_of_bnot_isReserved hwf
          exact ⟨_, rfl, (if_neg h55).trans (if_neg h54)⟩
        | _ => exact nomatch hread
      | false =>
        cases i with
        | lRunStart | lRunEsc | lEos => exact ⟨_, rfl, rfl⟩
        | lRunData b =>
          obtain ⟨h54, h55⟩ := Wire.ne_of_bnot_isReserved hwf
          exact ⟨_, rfl, (if_neg h55).trans (if_neg h54)⟩
        | _ => exact nomatch hread
    | afterEscape =>
      cases e with
      | true =>
        cases i with
        | lEos => exact ⟨_, rfl, rfl⟩
        | lLeadescOk c => exact ⟨_, rfl, if_pos hwf⟩
        | lLeadescBad b => exact ⟨_, rfl, if_neg (Bool.eq_false_iff.mp ((Bool.not_eq_true' _).mp hwf))⟩
        | _ => exact nomatch hread
      | false =>
        cases i with
        | lRunesc b | lEos => exact ⟨_, rfl, rfl⟩
        | _ => exact nomatch hread

/-- What the decoder must answer of an instruction `i` read in `f` from `evs`. -/
structure ReadBack (f : Format) (evs : List InputEvent) (i : Instr) : Prop where
  readIn_eq : readIn i f = true
  encode_eq : encode i = evs
  wellFormed_of_ne : f ≠ .frame → wellFormed i = true

theorem symbolClass_readBack (b : Byte) : ReadBack .symbol [.byte b] (symbolClass b) := by
  unfold symbolClass
  split_ifs with h55 h54 h00 h01
  · exact ⟨rfl, by rw [h55]; rfl, fun _ => rfl⟩
  · exact ⟨rfl, by rw [h54]; rfl, fun _ => rfl⟩
  · exact ⟨rfl, by rw [h00]; rfl, fun _ => rfl⟩
  · exact ⟨rfl, by rw [h01]; rfl, fun _ => rfl⟩
  · exact ⟨rfl, rfl, fun _ => by
      rw [wellFormed, Wire.isCode_eq_false h00 h01, Wire.isReserved_eq_false h54 h55]; rfl⟩

theorem escapePair_readBack (c : Byte) : ReadBack .escapeSequence [.byte 0x54#8, .byte c] (escapePair c) := by
  unfold escapePair
  split_ifs with h00 h01
  · exact ⟨rfl, by rw [h00]; rfl, fun _ => rfl⟩
  · exact ⟨rfl, by rw [h01]; rfl, fun _ => rfl⟩
  · exact ⟨rfl, rfl, fun _ => by rw [wellFormed, Wire.isCode_eq_false h00 h01]; rfl⟩

theorem delimRow_readBack (q : Sync) (e : Bool) (b : Byte) :
    ReadBack (.transition .delim q e) [.byte b] (delimRow q e b) := by
  cases q with
  | seekingStart =>
    simp only [delimRow]
    split_ifs with h55
    · exact ⟨rfl, by rw [h55]; rfl, fun _ => rfl⟩
    · exact ⟨rfl, rfl, fun _ => bne_iff_ne.mpr h55⟩
  | inFrame =>
    simp only [delimRow]
    split_ifs with h54 h55 hempty
    · exact ⟨rfl, by rw [h54]; rfl, fun _ => rfl⟩
    · exact ⟨hempty, by rw [h55]; rfl, fun _ => rfl⟩
    · exact ⟨(Bool.not_eq_true' _).mpr (Bool.eq_false_iff.mpr hempty), by rw [h55]; rfl, fun _ => rfl⟩
    · exact ⟨rfl, rfl, fun _ => by rw [wellFormed, Wire.isReserved_eq_false h54 h55]; rfl⟩
  | afterEscape =>
    simp only [delimRow]
    split_ifs with h00 h01
    · exact ⟨rfl, by rw [h00]; rfl, fun _ => rfl⟩
    · exact ⟨rfl, by rw [h01]; rfl, fun _ => rfl⟩
    · exact ⟨rfl, rfl, fun _ => by rw [wellFormed, Wire.isCode_eq_false h00 h01]; rfl⟩

theorem lengthRow_readBack (q : Sync) (e : Bool) (b : Byte) :
    ReadBack (.transition .length q e) [.byte b] (lengthRow q e b) := by
  cases q with
  | seekingStart =>
    simp only [lengthRow]
    split_ifs with h55
    · exact ⟨rfl, by rw [h55]; rfl, fun _ => rfl⟩
    · exact ⟨rfl, rfl, fun _ => bne_iff_ne.mpr h55⟩
  | inFrame =>
    cases e with
    | true | false =>
      simp only [lengthRow, if_true, Bool.false_eq_true, if_false]
      split_ifs with h55 h54
      · exact ⟨rfl, by rw [h55]; rfl, fun _ => rfl⟩
      · exact ⟨rfl, by rw [h54]; rfl, fun _ => rfl⟩
      · exact ⟨rfl, rfl, fun _ => by rw [wellFormed, Wire.isReserved_eq_false h54 h55]; rfl⟩
  | afterEscape =>
    cases e with
    | true =>
      simp only [lengthRow, if_true]
      split_ifs with hcode
      · exact ⟨rfl, rfl, fun _ => hcode⟩
      · exact ⟨rfl, rfl, fun _ => (Bool.not_eq_true' _).mpr (Bool.eq_false_iff.mpr hcode)⟩
    | false => exact ⟨rfl, rfl, fun _ => rfl⟩

theorem transitionRow_readBack (m : Mode) (q : Sync) (e : Bool) (ev : InputEvent) :
    ReadBack (.transition m q e) [ev] (transitionRow m q e ev) := by
  cases m with
  | delim =>
    cases ev with
    | eos => exact ⟨rfl, rfl, fun _ => rfl⟩
    | byte b => exact delimRow_readBack q e b
  | length =>
    cases ev with
    | eos => exact ⟨rfl, rfl, fun _ => rfl⟩
    | byte b => exact lengthRow_readBack q e b

theorem frameRow_readBack (a : Byte) (p : List Byte) :
    ReadBack .frame ((frameBytes a p).map .byte) (frameRow a p) := by
  obtain rfl | rfl | rfl | rfl | rfl | hmodule := Wire.lead_cases a
  case inr.inr.inr.inr.inr =>
    rw [frameRow_of_isModule p hmodule]
    exact ⟨rfl, rfl, fun h => absurd rfl h⟩
  all_goals exact ⟨rfl, rfl, fun h => absurd rfl h⟩

/-- R51: the decoder reads the row of the lead byte from the bytes of a frame. -/
theorem decode_frameBytes (a : Byte) (p : List Byte) :
    decode .frame ((frameBytes a p).map .byte) = .ok (frameRow a p) := by
  calc decode .frame ((frameBytes a p).map .byte)
    _ = frameOfBytes (unescapeBody ((escBytes (a :: p)).map .byte)) := rfl
    _ = .ok (frameRow a p) := by rw [unescapeBody_escBytes]; rfl

theorem frameOfBytes_eq_ok {body : Except DecodeError (List Byte)} {i : Instr} (h : frameOfBytes body = .ok i) :
    ∃ a p, body = .ok (a :: p) ∧ i = frameRow a p := by
  match body, h with
  | .ok (a :: p), h => exact ⟨a, p, rfl, (Except.ok.inj h).symm⟩

/-- Settles O36, format by format. -/
theorem decodeAfterEncodeIsTheInstruction : Obligations.DecodeAfterEncodeIsTheInstruction := by
  unfold Obligations.DecodeAfterEncodeIsTheInstruction
  intro i f hwf hread
  cases f with
  | symbol =>
    obtain ⟨b, henc, rfl⟩ := exists_byte_of_readIn_symbol hread hwf
    rw [henc]; rfl
  | escapeSequence =>
    obtain ⟨c, henc, rfl⟩ := exists_code_of_readIn_escapeSequence hread hwf
    rw [henc]; rfl
  | transition m q e =>
    obtain ⟨ev, henc, rfl⟩ := exists_event_of_readIn_transition hread hwf
    rw [henc]; rfl
  | frame =>
    obtain ⟨a, p, henc, rfl⟩ := exists_frame_of_readIn_frame hread hwf
    rw [henc, decode_frameBytes]

/-- R50 to R52: the decoder answers one of its selecting functions, at the events it was given. -/
theorem readBack_of_decode {f : Format} {evs : List InputEvent} {i : Instr} (h : decode f evs = .ok i) :
    ReadBack f evs i := by
  cases f with
  | symbol =>
    match evs, h with
    | [.byte b], h => exact Except.ok.inj h ▸ symbolClass_readBack b
  | escapeSequence =>
    match evs, h with
    | [.byte b, .byte c], h =>
      simp only [decode] at h
      split_ifs at h with hescape
      rw [hescape]
      exact Except.ok.inj h ▸ escapePair_readBack c
  | transition m q e =>
    match evs, h with
    | [ev], h => exact Except.ok.inj h ▸ transitionRow_readBack m q e ev
  | frame =>
    match evs, h with
    | .byte b :: rest, h =>
      simp only [decode] at h
      split_ifs at h with hstart
      obtain ⟨a, p, hbody, rfl⟩ := frameOfBytes_eq_ok h
      rw [hstart, ← escBytes_of_unescapeBody hbody]
      exact frameRow_readBack a p

/-- Settles O37, which is `readBack_of_decode`. -/
theorem encodeAfterDecodeIsTheEvents : Obligations.EncodeAfterDecodeIsTheEvents := by
  unfold Obligations.EncodeAfterDecodeIsTheEvents
  intro f evs i h
  obtain ⟨hread, henc, hwf⟩ := readBack_of_decode h
  exact ⟨hread, henc, hwf⟩

/-- Settles O35: the words written out are closed terms, which the decoder evaluates. -/
theorem writtenOutWordsDecode : Obligations.WrittenOutWordsDecode := by
  unfold Obligations.WrittenOutWordsDecode
  exact ⟨rfl, rfl, rfl, rfl, rfl, rfl, rfl⟩

end Sys2Proof
end

section
/-! PROOFS. The guard of a transition row is its columns of the table (10_state.md R22, 40_framing_delimiter_mode.md
R70). -/

namespace Sys2Proof.Machine

theorem readIn_of_delimIn {s : State} {q : Sync} {i : Instr} (happlies : s.delimIn q = true)
    (hread : readIn i (.transition .delim q s.buf.isEmpty) = true) :
    readIn i (.transition s.mode s.sync s.buf.isEmpty) = true := by
  obtain ⟨hmode, hsync⟩ := (s.delimIn_iff q).mp happlies
  rw [hmode, hsync, hread]

theorem readIn_of_lengthIn {s : State} {q : Sync} {i : Instr} (happlies : s.lengthIn q = true)
    (hread : readIn i (.transition .length q s.buf.isEmpty) = true) :
    readIn i (.transition s.mode s.sync s.buf.isEmpty) = true := by
  obtain ⟨hmode, hsync⟩ := (s.lengthIn_iff q).mp happlies
  rw [hmode, hsync, hread]

/-- A transition row answers a next state only in the mode and the state of its columns. -/
theorem readIn_of_exec {s t : State} {i : Instr} {m : Mode} {q : Sync} {e : Bool}
    (hrow : readIn i (.transition m q e) = true) (h : exec i s = .next t) :
    readIn i (.transition s.mode s.sync s.buf.isEmpty) = true := by
  cases i with
  | dSeekStart | dInEsc | dAeCode0 | dAeCode1 => exact readIn_of_delimIn (whenSelected_next.mp h).1 rfl
  | dSeekOther | dInData | dAeBad =>
    exact readIn_of_delimIn (Bool.and_eq_true_iff.mp (whenSelected_next.mp h).1).1 rfl
  | dInStartEmpty =>
    obtain ⟨happlies, hempty⟩ := Bool.and_eq_true_iff.mp (whenSelected_next.mp h).1
    exact readIn_of_delimIn happlies hempty
  | dInStartFrame =>
    have h : execDInStartFrame s = .next t := h
    unfold execDInStartFrame at h
    cases hbuf : s.buf with
    | nil => rw [hbuf] at h; cases h
    | cons a p =>
      rw [hbuf] at h
      rw [← hbuf]
      exact readIn_of_delimIn (whenSelected_next.mp h).1 (by rw [hbuf]; rfl)
  | dEos =>
    have hmode : s.mode = .delim := eq_of_beq (whenSelected_next.mp h).1
    rw [hmode]; rfl
  | lSeekStart => exact readIn_of_lengthIn (whenSelected_next.mp h).1 rfl
  | lSeekOther => exact readIn_of_lengthIn (Bool.and_eq_true_iff.mp (whenSelected_next.mp h).1).1 rfl
  | lLeadStart | lLeadEsc | lRunStart | lRunEsc | lRunesc =>
    obtain ⟨happlies, hbuf⟩ := Bool.and_eq_true_iff.mp (whenSelected_next.mp h).1
    exact readIn_of_lengthIn happlies hbuf
  | lLeadData | lRunData | lLeadescOk | lLeadescBad =>
    obtain ⟨happlies, hbuf⟩ := Bool.and_eq_true_iff.mp (Bool.and_eq_true_iff.mp (whenSelected_next.mp h).1).1
    exact readIn_of_lengthIn happlies hbuf
  | lEos =>
    have hmode : s.mode = .length := eq_of_beq (whenSelected_next.mp h).1
    rw [hmode]; rfl
  | _ => exact nomatch hrow

/-- Settles O38: a row that executes belongs to the mode and the state, so the decoder selects it for its event; and the
selected row always executes. -/
theorem exactlyOneTransitionRowApplies : Obligations.ExactlyOneTransitionRowApplies := by
  unfold Obligations.ExactlyOneTransitionRowApplies
  intro s ev i m q e hrow hwf henc
  constructor
  · rintro ⟨t, hexec⟩
    obtain ⟨ev', henc', hselected⟩ := exists_event_of_readIn_transition (readIn_of_exec hrow hexec) hwf
    cases henc.symm.trans henc'
    exact hselected.symm
  · rintro rfl
    obtain ⟨t, ht⟩ := s.exists_takes ev
    exact ⟨t, ht.exec_rowFor⟩

end Sys2Proof.Machine
end

section
/-! PROOFS. Runs: several steps, and the reading of a list of bytes as a relation on the registers (10_state.md R22,
R25, 70_reset_and_hazards.md R192). -/

namespace Sys2Proof.Machine

theorem State.runsTo_zero (s : State) : s.runsTo 0 s := rfl

theorem State.runsTo_succ {s t : State} {k : Nat} : s.runsTo (k + 1) t ↔ ∃ u, step s = .next u ∧ u.runsTo k t := by
  cases hstep : step s with
  | next u =>
    have hcore : Sys2Proof.core.step s = .next u := hstep
    simp only [State.runsTo, Host.Core.run, hcore]
    constructor
    · exact fun h => ⟨u, rfl, h⟩
    · rintro ⟨_, ⟨⟩, h⟩
      exact h
  | fault r => cases r
  | refused r =>
    have hcore : Sys2Proof.core.step s = .refused r := hstep
    simp [State.runsTo, Host.Core.run, hcore]

theorem State.runsTo_add {s u t : State} {k l : Nat} (h : s.runsTo k u) (h' : u.runsTo l t) :
    s.runsTo (k + l) t := by
  induction k generalizing s with
  | zero =>
    cases Host.Outcome.next.inj h
    rwa [Nat.zero_add]
  | succ k ih =>
    obtain ⟨v, hstep, hrest⟩ := State.runsTo_succ.mp h
    rw [Nat.succ_add]
    exact State.runsTo_succ.mpr ⟨v, hstep, ih hrest⟩

/-- R25: outputs with their indices, as they stand `k` events later in a stream. -/
def delayed (k : Nat) (es : List (Nat × Output)) : List (Nat × Output) := es.map fun e => (k + e.1, e.2)

@[simp] theorem delayed_nil (k : Nat) : delayed k [] = [] := rfl

@[simp] theorem delayed_cons (k i : Nat) (o : Output) (es : List (Nat × Output)) :
    delayed k ((i, o) :: es) = (k + i, o) :: delayed k es := rfl

@[simp] theorem delayed_append (k : Nat) (es fs : List (Nat × Output)) :
    delayed k (es ++ fs) = delayed k es ++ delayed k fs := List.map_append

@[simp] theorem delayed_zero (es : List (Nat × Output)) : delayed 0 es = es := by
  simp [delayed]

@[simp] theorem delayed_delayed (k l : Nat) (es : List (Nat × Output)) :
    delayed k (delayed l es) = delayed (k + l) es := by
  simp [delayed, Nat.add_assoc]

@[simp] theorem map_snd_delayed (k : Nat) (es : List (Nat × Output)) :
    (delayed k es).map Prod.snd = es.map Prod.snd := by
  simp [delayed]

theorem delayed_observation (k i : Nat) (o : Output) : delayed k (observation i o) = observation (k + i) o := by
  cases o <;> rfl

/-- `s.Reads bs es t`: the bytes `bs`, taken one after another from `s`, lead to `t` and produce the outputs `es`,
indexed from the first of these bytes. The output port of `t` is left open where nothing is read. -/
inductive State.Reads : State → List Byte → List (Nat × Output) → State → Prop
  | nil (s : State) (o : Output) : State.Reads s [] [] (s.emit o)
  | cons {s u t : State} {b : Byte} {bs : List Byte} {es : List (Nat × Output)} (h : s.Takes (.byte b) u)
      (hrest : State.Reads u bs es t) : State.Reads s (b :: bs) (observation 0 u.out ++ delayed 1 es) t

/-- The output of an earlier step has no effect. -/
theorem State.Takes.emit {s t : State} {ev : InputEvent} (h : s.Takes ev t) (o : Output) : (s.emit o).Takes ev t := by
  obtain ⟨-, -, hinput, hpos, htrace⟩ := h.keepsHostSide
  have ht : t.onStream t.out s.input s.pos s.trace = t := by rw [← hinput, ← hpos, ← htrace]; rfl
  exact ht ▸ h.onStream o s.input s.pos s.trace

namespace State.Reads

variable {s u t : State} {b : Byte} {bs cs : List Byte} {es fs : List (Nat × Output)}

theorem refl (s : State) : s.Reads [] [] s := .nil s s.out

theorem emit (h : s.Reads bs es t) (o : Output) : (s.emit o).Reads bs es t := by
  cases h with
  | nil => exact .nil (s.emit o) _
  | cons h hrest => exact .cons (h.emit o) hrest

/-- Reading on from where the first bytes lead, whatever output they left there. -/
theorem append (h : s.Reads bs es u) (h' : u.Reads cs fs t) :
    s.Reads (bs ++ cs) (es ++ delayed bs.length fs) t := by
  induction h with
  | nil s o =>
    rw [List.nil_append, List.nil_append, List.length_nil, delayed_zero]
    exact h'.emit s.out
  | cons h _ ih =>
    rw [List.append_assoc, List.length_cons, Nat.add_comm, ← delayed_delayed, ← delayed_append]
    exact .cons h (ih h')

/-- A byte taken in silence. -/
theorem cons_silent (h : s.Takes (.byte b) u) (hout : u.out = .none) (hrest : u.Reads bs es t) :
    s.Reads (b :: bs) (delayed 1 es) t := by
  have hread := State.Reads.cons h hrest
  rwa [hout] at hread

theorem of_takes (h : s.Takes (.byte b) t) : s.Reads [b] (observation 0 t.out) t := by
  simpa using State.Reads.cons h (refl t)

/-- The bytes up to the last, then the last with its output. -/
theorem snoc (h : s.Reads bs [] u) (h' : u.Takes (.byte b) t) :
    s.Reads (bs ++ [b]) (observation bs.length t.out) t := by
  have hread := h.append (of_takes h')
  rwa [List.nil_append, delayed_observation] at hread

end State.Reads

/-- One step of the machine on a byte that is taken. -/
theorem State.Takes.runsTo_one {s t : State} {b : Byte} (h : s.Takes (.byte b) t) (o : Output)
    (rest : List InputEvent) (pos : Nat) (trace : List (Nat × Output)) :
    (s.onStream o (.byte b :: rest) pos trace).runsTo 1
      (t.onStream t.out rest (pos + 1) (trace ++ observation pos t.out)) :=
  State.runsTo_succ.mpr ⟨_, (h.onStream o (.byte b :: rest) pos trace).step_eq rfl, State.runsTo_zero _⟩

/-- R192: the machine reads the bytes that stand in its input, and records their outputs. -/
theorem State.Reads.runsTo {s t : State} {bs : List Byte} {es : List (Nat × Output)} (h : s.Reads bs es t) (o : Output)
    (rest : List InputEvent) (pos : Nat) (trace : List (Nat × Output)) :
    ∃ o', (s.onStream o (bytesIn bs ++ rest) pos trace).runsTo bs.length
      (t.onStream o' rest (pos + bs.length) (trace ++ delayed pos es)) := by
  induction h generalizing o pos trace with
  | nil s o' => exact ⟨o, by rw [delayed_nil, List.append_nil]; exact State.runsTo_zero _⟩
  | @cons s u t b bs es h _ ih =>
    obtain ⟨o', hrest⟩ := ih u.out (pos + 1) (trace ++ observation pos u.out)
    refine ⟨o', ?_⟩
    have hone := h.runsTo_one o (bytesIn bs ++ rest) pos trace
    have hrun := State.runsTo_add hone hrest
    rw [delayed_append, delayed_observation, delayed_delayed, ← List.append_assoc, List.length_cons, Nat.add_zero,
      Nat.add_comm bs.length 1, ← Nat.add_assoc]
    exact hrun

/-- The same of a state with exactly these bytes to come. -/
theorem State.Reads.endsIn {s t : State} {bs : List Byte} {es : List (Nat × Output)} (h : s.Reads bs es t)
    (hinput : s.input = bytesIn bs) :
    ∃ o, s.endsIn (t.onStream o [] (s.pos + bs.length) (s.trace ++ delayed s.pos es)) := by
  obtain ⟨o, hrun⟩ := h.runsTo s.out [] s.pos s.trace
  have hlen : s.input.length = bs.length := by rw [hinput, bytesIn, List.length_map]
  refine ⟨o, ?_⟩
  rw [State.endsIn, hlen]
  rwa [List.append_nil, ← hinput] at hrun

/-- The same of a session: the observation is what the bytes produce. -/
theorem State.Reads.session {mode : Mode} {ml : Memory} {t : State} {bs : List Byte} {es : List (Nat × Output)}
    (h : (Machine.session mode ml []).Reads bs es t) :
    ∃ o, (Machine.session mode ml bs).endsIn (t.onStream o [] bs.length es) := by
  obtain ⟨o, hrun⟩ := h.runsTo .none [] 0 []
  have hlen : (Machine.session mode ml bs).input.length = bs.length := List.length_map _
  refine ⟨o, ?_⟩
  rw [State.endsIn, hlen]
  rwa [List.append_nil, Nat.zero_add, List.nil_append, delayed_zero] at hrun

end Sys2Proof.Machine
end

section
/-! PROOFS. The symbol classes and the escape sequences as instructions (30_encoding.md R50 to R53, R161): each class
is the row its byte selects, each sequence its two bytes. -/

namespace Sys2Proof.Machine

/-- R50: the five classes. -/
theorem symbol_cases (b : Byte) :
    b = 0x55#8 ∨ b = 0x54#8 ∨ b = 0x00#8 ∨ b = 0x01#8 ∨
      (b ≠ 0x00#8 ∧ b ≠ 0x01#8 ∧ b ≠ 0x54#8 ∧ b ≠ 0x55#8) := by
  tauto

/-- The column "other byte" of the two tables R80 and R107. -/
theorem otherByte_eq {b : Byte} (s : State) (h00 : b ≠ 0x00#8) (h01 : b ≠ 0x01#8) (h54 : b ≠ 0x54#8)
    (h55 : b ≠ 0x55#8) : otherByte b s = exec (s.rowFor (.byte b)) s := by
  have hcode : Wire.isCode b = false := Wire.isCode_eq_false h00 h01
  obtain ⟨sync, buf, _, _, _, mode, _⟩ := s
  cases mode with
  | delim =>
    rw [State.rowFor_byte_delim rfl]
    cases sync <;>
      simp [otherByte, delimRow, exec, Wire.start, Wire.escape, Wire.code0, Wire.code1, h00, h01, h54, h55]
  | length =>
    rw [State.rowFor_byte_length rfl]
    cases sync <;> cases buf <;> simp [otherByte, lengthRow, exec, Wire.start, Wire.escape, hcode, h54, h55]

/-- R50: a class is the row that its byte selects; for the four exact classes the two tables are compared cell by
cell. -/
theorem exec_symbolClass (b : Byte) (s : State) : exec (symbolClass b) s = exec (s.rowFor (.byte b)) s := by
  obtain rfl | rfl | rfl | rfl | ⟨h00, h01, h54, h55⟩ := symbol_cases b
  case inr.inr.inr.inr =>
    have hdata : execData b s = otherByte b s := by
      rw [execData, Wire.isCode_eq_false h00 h01, Wire.isReserved_eq_false h54 h55]
      rfl
    rw [symbolClass_of_ne h00 h01 h54 h55, ← otherByte_eq s h00 h01 h54 h55]
    exact hdata
  all_goals
    obtain ⟨sync, buf, _, _, _, mode, _⟩ := s
    cases mode <;> cases sync <;> cases buf <;> rfl

/-- Settles O18: each class is its row, which the state takes. -/
theorem symbolClassesRunTheirTransition : Obligations.SymbolClassesRunTheirTransition := by
  unfold Obligations.SymbolClassesRunTheirTransition
  intro s
  have completes (b : Byte) :
      ∃ t, exec (symbolClass b) s = .next t ∧ exec (s.rowFor (.byte b)) s = .next t := by
    obtain ⟨t, ht⟩ := s.exists_takes (.byte b)
    exact ⟨t, (exec_symbolClass b s).trans ht.exec_rowFor, ht.exec_rowFor⟩
  refine ⟨completes 0x55#8, completes 0x54#8, completes 0x00#8, completes 0x01#8, fun b h00 h01 h54 h55 => ?_⟩
  exact symbolClass_of_ne h00 h01 h54 h55 ▸ completes b

/-- R52: the sequence is `ESCAPE`, then the row of its code byte. -/
theorem exec_escapePair (c : Byte) (s : State) :
    exec (escapePair c) s = inSequence (exec .escape s) fun t => exec (t.rowFor (.byte c)) t := by
  rw [← funext (exec_symbolClass c)]
  obtain rfl | rfl | rfl | rfl | ⟨h00, h01, h54, h55⟩ := symbol_cases c
  case inr.inr.inr.inr =>
    have hpair : escapePair c = .escBad c := (if_neg h00).trans (if_neg h01)
    rw [hpair, funext (exec_symbolClass c)]
    show execEscBad c s = _
    rw [execEscBad, Wire.isCode_eq_false h00 h01, if_neg Bool.false_ne_true,
      if_neg (show c ≠ Wire.escape from h54), if_neg (show c ≠ Wire.start from h55)]
    exact congrArg (inSequence (execEscape s)) (funext fun t => otherByte_eq t h00 h01 h54 h55)
  all_goals rfl

/-- Inside a frame the first byte is silent, so the sequence is what its code byte does after an `ESCAPE`. -/
theorem State.Takes.exec_escapePair {s u : State} {c : Byte} (hsync : s.sync = .inFrame)
    (h : ({ s with sync := .afterEscape, out := .none } : State).Takes (.byte c) u) :
    exec (escapePair c) s = .next u := by
  have hescape : exec .escape s = .next { s with sync := .afterEscape, out := .none } :=
    (exec_symbolClass 0x54#8 s).trans (State.Takes.escape hsync rfl).exec_rowFor
  rw [Machine.exec_escapePair, hescape]
  exact inSequence_next.mpr ⟨_, u, rfl, h.exec_rowFor, rfl⟩

/-- Settles O21: the step of the `ESCAPE` and the step of the code byte, one after the other. -/
theorem escapeSequenceIsItsTwoSteps : Obligations.EscapeSequenceIsItsTwoSteps := by
  unfold Obligations.EscapeSequenceIsItsTwoSteps
  intro s c rest hsync hinput
  obtain ⟨u, hu⟩ := State.exists_takes { s with sync := .afterEscape, out := .none } (.byte c)
  refine ⟨u, hu.exec_escapePair hsync, ?_⟩
  have hfirst := (State.Takes.escape hsync rfl).runsTo_one s.out (.byte c :: rest) s.pos s.trace
  have hsecond := hu.runsTo_one .none rest (s.pos + 1) (s.trace ++ observation s.pos .none)
  have hrun := State.runsTo_add hfirst hsecond
  rw [← hinput, show s.trace ++ observation s.pos .none = s.trace from List.append_nil _] at hrun
  exact hrun

/-- Settles O19: the code byte after an `ESCAPE` in `DELIM` mode. -/
theorem delimEscapeSequencesDeliver : Obligations.DelimEscapeSequencesDeliver := by
  unfold Obligations.DelimEscapeSequencesDeliver
  intro s hmode hsync
  refine ⟨?code0, ?code1, fun c h00 h01 => ?bad⟩
  case code0 =>
    exact (State.Takes.exec_escapePair (c := 0x00#8) hsync (.appendCode hmode rfl rfl)).trans (by rw [hsync]; rfl)
  case code1 =>
    exact (State.Takes.exec_escapePair (c := 0x01#8) hsync (.appendCode hmode rfl rfl)).trans (by rw [hsync]; rfl)
  case bad =>
    have hpair : escapePair c = .escBad c := (if_neg h00).trans (if_neg h01)
    exact hpair ▸ State.Takes.exec_escapePair hsync (.badEscape (.inl hmode) rfl (Wire.isCode_eq_false h00 h01))

/-- Inside a run the code byte is the second byte of a pair, R104. -/
theorem exec_escapePair_of_lRunesc {s u : State} {a c : Byte} {p : List Byte} (hmode : s.mode = .length)
    (hsync : s.sync = .inFrame) (hbuf : s.buf = a :: p)
    (h : exec (.lRunesc c) { s with sync := .afterEscape, out := .none } = .next u) :
    exec (escapePair c) s = .next u := by
  have hempty : s.buf.isEmpty = false := by rw [hbuf]; rfl
  have hrow : ({ s with sync := .afterEscape, out := .none } : State).rowFor (.byte c) = .lRunesc c := by
    simp only [State.rowFor, hmode, transitionRow, lengthRow, hempty, Bool.false_eq_true, if_false]
  exact State.Takes.exec_escapePair hsync (exec_rowFor_iff.mp (hrow ▸ h))

/-- Settles O20: the pairs of R104, where the counter does not reach 0. -/
theorem lengthEscapeSequencesDeliver : Obligations.LengthEscapeSequencesDeliver := by
  unfold Obligations.LengthEscapeSequencesDeliver
  intro s hmode hsync hne hrem
  obtain ⟨a, p, hbuf⟩ := List.exists_cons_of_ne_nil hne
  have hresult (c : Byte) :=
    lengthRunEscapeCodeResult { s with sync := .afterEscape, out := .none } a p c hmode rfl hbuf
  have hpair {c : Byte} {u : State} (h : exec (.lRunesc c) { s with sync := .afterEscape, out := .none } = .next u) :
      exec (escapePair c) s = .next u := exec_escapePair_of_lRunesc hmode hsync hbuf h
  rw [hsync]
  refine ⟨?code0, ?code1, ?escape, ?start, fun c h00 h01 h54 h55 => ?other⟩
  case code0 =>
    obtain ⟨-, hgoes_on, -⟩ := hresult 0x00#8
    obtain ⟨hcode, -⟩ := hgoes_on hrem
    rw [hbuf]
    exact hpair (c := 0x00#8) (hcode rfl)
  case code1 =>
    obtain ⟨-, hgoes_on, -⟩ := hresult 0x01#8
    obtain ⟨-, hcode, -⟩ := hgoes_on hrem
    rw [hbuf]
    exact hpair (c := 0x01#8) (hcode rfl)
  case escape =>
    obtain ⟨hescape, -⟩ := hresult 0x54#8
    exact hpair (c := 0x54#8) (hescape rfl fun h => hrem (congrArg (· - 1) h))
  case start =>
    obtain ⟨-, hgoes_on, -⟩ := hresult 0x55#8
    obtain ⟨-, -, hstart, -⟩ := hgoes_on hrem
    exact hpair (c := 0x55#8) (hstart rfl)
  case other =>
    obtain ⟨-, hgoes_on, -⟩ := hresult c
    obtain ⟨-, -, -, hother⟩ := hgoes_on hrem
    have hbad : escapePair c = .escBad c := (if_neg h00).trans (if_neg h01)
    exact hbad ▸ hpair (hother h00 h01 h54 h55)

end Sys2Proof.Machine
end

section
/-! PROOFS. Streams in `DELIM` mode (40_framing_delimiter_mode.md R71 to R82): garbage, frame bodies, and the `START`
that closes one frame and opens the next. -/

namespace Sys2Proof.Machine

/-- The raw bytes of a frame after its `START` (R51, R140). -/
def frameBody (f : Frame) : List Byte := escBytes (f.address :: f.payload)

theorem encodeFrame_eq (f : Frame) : encodeFrame f = 0x55#8 :: frameBody f := rfl

theorem length_encodeFrame (f : Frame) : (encodeFrame f).length = (frameBody f).length + 1 := rfl

theorem observation_dispatch (k : Nat) (ml : Memory) (f : Frame) :
    observation k (dispatch ml f) = [(k, dispatch ml f)] := by
  rw [observation_eq_ite, if_neg]
  intro hnone
  unfold dispatch at hnone
  obtain ⟨-, h⟩ | ⟨_, -, -, h⟩ | ⟨-, h⟩ := checkedOutput_cases ml f.address f.payload (commandOf f) <;>
    exact nomatch h.symm.trans hnone

namespace State.Reads

variable {s t : State} {bs : List Byte} {es : List (Nat × Output)}

/-- The output port of the state read to is left open. -/
theorem emit_right (h : s.Reads bs es t) (o : Output) : s.Reads bs es (t.emit o) := by
  induction h with
  | nil s _ => exact .nil s o
  | cons h _ ih => exact .cons h ih

/-- R72, R94: garbage is skipped in silence. -/
theorem garbage (hsync : s.sync = .seekingStart) (h55 : 0x55#8 ∉ bs) : s.Reads bs [] s := by
  induction bs with
  | nil => exact refl s
  | cons b bs ih =>
    obtain ⟨hb, hbs⟩ := not_or.mp (mt List.mem_cons.mpr h55)
    exact cons_silent (.discard hsync (Ne.symm hb)) rfl ((ih hbs).emit .none)

section
variable (hmode : s.mode = .delim) (hsync : s.sync = .inFrame)
include hmode hsync

/-- R73, R76 to R78: the raw bytes of unescaped bytes append these to the buffer. -/
theorem delim_escBytes {q : List Byte} (vs : List Byte) (hbuf : s.buf = q) :
    s.Reads (escBytes vs) [] { s with buf := q ++ vs } := by
  induction vs generalizing s q with
  | nil =>
    rw [List.append_nil, ← hbuf]
    exact refl s
  | cons v vs ih =>
    have hrest {u : State} (hu : u = { s with buf := q ++ [v], out := .none }) :
        u.Reads (escBytes vs) [] { s with buf := q ++ v :: vs } := by
      subst hu
      rw [List.append_cons q v vs]
      exact (ih (s := { s with buf := q ++ [v], out := .none }) hmode hsync rfl).emit_right s.out
    rw [escBytes_cons]
    obtain ⟨h54, h55, hself⟩ | ⟨c, hc, rfl, hpair⟩ := escByte_cases v
    · rw [hself]
      exact cons_silent (.append hmode hsync h54 h55) rfl (hrest (by rw [hbuf]))
    · rw [hpair]
      exact cons_silent (.escape hsync rfl) rfl
        (cons_silent (.appendCode hmode rfl hc) rfl (hrest (by rw [hbuf, hsync])))

/-- R74: a frame body and the `START` after it give the dispatch result of the frame, in the step of that `START`. -/
theorem delim_frame (hbuf : s.buf = []) (f : Frame) :
    s.Reads (frameBody f ++ [0x55#8]) [((frameBody f).length, dispatch s.ml f)] s := by
  have hclose := snoc (delim_escBytes hmode hsync (f.address :: f.payload) hbuf) (.close hmode hsync rfl rfl)
  rw [observation_dispatch] at hclose
  have hs : ({ s with buf := [] } : State) = s := by rw [← hbuf]
  exact hs ▸ hclose.emit_right s.out

/-- R74, R148: a stream of frame bodies, each closed by a `START`. -/
theorem delim_frames (hbuf : s.buf = []) (fs : List Frame) :
    ∃ es, s.Reads (fs.flatMap fun f => frameBody f ++ [0x55#8]) es s ∧ es.map Prod.snd = fs.map (dispatch s.ml) := by
  induction fs with
  | nil => exact ⟨[], refl s, rfl⟩
  | cons f fs ih =>
    obtain ⟨es, hread, hes⟩ := ih
    refine ⟨_, (delim_frame hmode hsync hbuf f).append hread, ?_⟩
    rw [List.map_append, map_snd_delayed, hes]
    rfl

end

/-- R71: the `START` that ends the garbage. -/
theorem delim_start (hmode : s.mode = .delim) (hsync : s.sync = .seekingStart) :
    s.Reads [0x55#8] [] { s with sync := .inFrame, buf := [], out := .none } :=
  of_takes (.openDelim hmode hsync rfl)

end State.Reads

/-- A session of `DELIM` mode in the frame that its first `START` opened. -/
def delimOpened (ml : Memory) : State := { session .delim ml [] with sync := .inFrame }

/-- Garbage, a `START`, and what the opened frame reads. -/
theorem State.Reads.delim_session {ml : Memory} {g bs : List Byte} {es : List (Nat × Output)} {t : State}
    (h55 : 0x55#8 ∉ g) (h : (delimOpened ml).Reads bs es t) :
    ∃ o, (Machine.session .delim ml (g ++ 0x55#8 :: bs)).endsIn
      (t.onStream o [] (g ++ 0x55#8 :: bs).length (delayed (g.length + 1) es)) := by
  have hgarbage : (Machine.session .delim ml []).Reads g [] (Machine.session .delim ml []) := .garbage rfl h55
  have hread := hgarbage.append ((State.Reads.delim_start rfl rfl).append h)
  rw [List.nil_append, List.nil_append, delayed_delayed] at hread
  exact hread.session

/-- The closing `START` of each frame taken with its frame. -/
theorem flatMap_encodeFrame_append (fs : List Frame) :
    fs.flatMap encodeFrame ++ [0x55#8] = 0x55#8 :: fs.flatMap fun f => frameBody f ++ [0x55#8] := by
  induction fs with
  | nil => rfl
  | cons f fs ih => rw [List.flatMap_cons, List.append_assoc, ih, encodeFrame_eq]; simp

/-- Settles O53: after the garbage and its `START`, two frames with the `START` that closes each. -/
theorem delimResynchronisesAfterGarbage : Obligations.DelimResynchronisesAfterGarbage := by
  unfold Obligations.DelimResynchronisesAfterGarbage
  intro ml g f1 f2 h55
  have hframe (f : Frame) : (delimOpened ml).Reads _ _ _ := .delim_frame rfl rfl rfl f
  have hstream : g ++ encodeFrame f1 ++ encodeFrame f2 ++ [0x55#8] =
      g ++ 0x55#8 :: ((frameBody f1 ++ [0x55#8]) ++ (frameBody f2 ++ [0x55#8])) := by
    simp [encodeFrame_eq]
  obtain ⟨o, hends⟩ := State.Reads.delim_session h55 ((hframe f1).append (hframe f2))
  refine ⟨_, hstream ▸ hends, ?_⟩
  show delayed _ _ = _
  simp only [length_encodeFrame, List.length_append, List.length_singleton, List.singleton_append, delayed_cons,
    delayed_nil]
  rw [show g.length + 1 + (frameBody f1).length = g.length + ((frameBody f1).length + 1) by omega,
    show g.length + 1 + ((frameBody f1).length + 1 + (frameBody f2).length) =
      g.length + ((frameBody f1).length + 1) + ((frameBody f2).length + 1) by omega]
  rfl

/-- Settles O57: the first `START` leaves the decoder seeking or in a frame with an empty buffer, where the second opens
or fills. -/
theorem twoStartsRecoverDelimMode : Obligations.TwoStartsRecoverDelimMode := by
  unfold Obligations.TwoStartsRecoverDelimMode
  intro s hmode hinput
  have hreads : ∃ es t, s.Reads [0x55#8, 0x55#8] es t ∧ t.sync = .inFrame ∧ t.buf = [] := by
    cases hsync : s.sync with
    | seekingStart =>
      exact ⟨_, _, .cons (.openDelim hmode hsync rfl) (.of_takes (.fill rfl rfl rfl)), rfl, rfl⟩
    | inFrame =>
      cases hbuf : s.buf with
      | nil => exact ⟨_, _, .cons (.fill hsync hbuf rfl) (.of_takes (.fill hsync hbuf rfl)), hsync, hbuf⟩
      | cons a p => exact ⟨_, _, .cons (.close hmode hsync hbuf rfl) (.of_takes (.fill hsync rfl rfl)), hsync, rfl⟩
    | afterEscape =>
      exact ⟨_, _, .cons (.badEscape (.inl hmode) hsync rfl) (.of_takes (.openDelim hmode rfl rfl)), rfl, rfl⟩
  obtain ⟨es, t, hread, hsync, hbuf⟩ := hreads
  obtain ⟨o, hends⟩ := hread.endsIn hinput
  exact ⟨_, hends, hsync, hbuf⟩

end Sys2Proof.Machine
end

section
/-! PROOFS. The raw bytes of a run, counted one at a time (41_framing_length_mode.md R91, R92): the batch procedure,
which reads as many more bytes as its last batch holds escapes, reads the same run. -/

namespace Sys2Proof.Reference

open Sys2Proof.Machine (remAfter)

/-- The raw run that a counter of `k` units reads of a stream, and the stream after it (R13, R92). -/
def takeRun : List Byte → Nat → Option (List Byte × List Byte)
  | bs, 0 => some ([], bs)
  | [], _ + 1 => none
  | b :: bs, k + 1 => (takeRun bs (remAfter (k + 1) b)).map fun r => (b :: r.1, r.2)

@[simp] theorem takeRun_zero (bs : List Byte) : takeRun bs 0 = some ([], bs) := by
  cases bs <;> rfl

theorem takeRun_cons_succ (b : Byte) (bs : List Byte) (k : Nat) :
    takeRun (b :: bs) (k + 1) = (takeRun bs (remAfter (k + 1) b)).map fun r => (b :: r.1, r.2) := rfl

/-- The run and the rest are the stream. -/
theorem takeRun_append {bs run rest : List Byte} {k : Nat} (h : takeRun bs k = some (run, rest)) :
    bs = run ++ rest := by
  induction bs generalizing k run with
  | nil =>
    cases k with
    | zero => cases h; rfl
    | succ k => cases h
  | cons b bs ih =>
    cases k with
    | zero => cases h; rfl
    | succ k =>
      obtain ⟨⟨run', rest'⟩, hrest, hcons⟩ := Option.map_eq_some_iff.mp h
      cases hcons
      exact congrArg (b :: ·) (ih hrest)

/-- Reading on with `k` more units. -/
def continueRun (k : Nat) (r : List Byte × List Byte) : Option (List Byte × List Byte) :=
  (takeRun r.2 k).map fun r' => (r.1 ++ r'.1, r'.2)

/-- A counter of `j + k` units reads on where one of `j` units ends. -/
theorem takeRun_add (bs : List Byte) (j k : Nat) : takeRun bs (j + k) = (takeRun bs j).bind (continueRun k) := by
  induction bs generalizing j with
  | nil => cases j <;> cases k <;> rfl
  | cons b bs ih =>
    cases j with
    | zero => simp [continueRun]
    | succ j =>
      have hrem : remAfter (j + k + 1) b = remAfter (j + 1) b + k := by
        unfold remAfter
        split <;> omega
      rw [Nat.add_right_comm, takeRun_cons_succ, takeRun_cons_succ, hrem, ih, Option.map_bind, Option.bind_map]
      congr 1
      funext r
      simp [continueRun, Function.comp_def]

theorem escapes_cons (b : Byte) (bs : List Byte) :
    escapes (b :: bs) = escapes bs + if b = 0x54#8 then 1 else 0 := by
  simp [escapes, List.countP_cons, Wire.escape]

/-- What a batch has read, continued with as many units as it holds escapes. -/
theorem takeRun_eq_takeRaw (bs : List Byte) (k : Nat) :
    takeRun bs k = (takeRaw k bs).bind fun r => continueRun (escapes r.1) r := by
  induction k generalizing bs with
  | zero => simp [takeRaw, continueRun, escapes]
  | succ k ih =>
    cases bs with
    | nil => rfl
    | cons b bs =>
      have hraw : takeRaw (k + 1) (b :: bs) = (takeRaw k bs).map fun r => (b :: r.1, r.2) := by
        by_cases hk : k ≤ bs.length <;> simp [takeRaw, hk]
      rw [takeRun_cons_succ, hraw, Option.bind_map]
      by_cases hb : b = 0x54#8
      · have hrem : remAfter (k + 1) b = k + 1 := if_pos hb
        rw [hrem, takeRun_add, ih, Option.bind_assoc, Option.map_bind]
        congr 1
        funext r
        simp only [Function.comp_def, escapes_cons, hb, if_true]
        rw [continueRun, continueRun, takeRun_add]
        cases takeRun r.2 (escapes r.1) <;> simp [continueRun, Function.comp_def]
      · have hrem : remAfter (k + 1) b = k := Machine.remAfter_of_ne _ hb
        rw [hrem, ih, Option.map_bind]
        congr 1
        funext r
        simp [Function.comp_def, escapes_cons, hb, continueRun]

/-- R91 step 3: with a bound above the length of the stream the rounds come to an end. -/
theorem extendRun_eq (bound : Nat) (batch run bs : List Byte) (hbound : bs.length < bound) :
    extendRun bound batch run bs = continueRun (escapes batch) (run, bs) := by
  induction bound generalizing batch run bs with
  | zero => exact absurd hbound (Nat.not_lt_zero _)
  | succ bound ih =>
    rw [extendRun]
    by_cases hnone : escapes batch = 0
    · simp [hnone, continueRun]
    rw [if_neg hnone, continueRun, takeRun_eq_takeRaw]
    by_cases hlen : escapes batch ≤ bs.length
    · have hraw : takeRaw (escapes batch) bs = some (bs.take (escapes batch), bs.drop (escapes batch)) := if_pos hlen
      have hshorter : (bs.drop (escapes batch)).length < bound := by
        rw [List.length_drop]
        omega
      rw [hraw]
      simp only [ih _ _ _ hshorter]
      simp [continueRun, Function.comp_def]
    · have hraw : takeRaw (escapes batch) bs = none := if_neg hlen
      rw [hraw]
      rfl

/-- R92: the rounds of the procedure and the counter read the same run. -/
theorem readRun_eq_takeRun (k : Nat) (bs : List Byte) : readRun k bs = takeRun bs k := by
  rw [takeRun_eq_takeRaw, readRun]
  by_cases hlen : k ≤ bs.length
  · have hraw : takeRaw k bs = some (bs.take k, bs.drop k) := if_pos hlen
    have hshorter : (bs.drop k).length < bs.length + 1 := by
      rw [List.length_drop]
      omega
    rw [hraw]
    exact extendRun_eq _ _ _ _ hshorter
  · have hraw : takeRaw k bs = none := if_neg hlen
    rw [hraw]
    rfl

end Sys2Proof.Reference
end

section
/-! PROOFS. A run of `LENGTH` mode as the machine reads it (41_framing_length_mode.md R99 to R105): one update of the
registers for every raw byte, then the ending. -/

namespace Sys2Proof.Machine

/-- The registers after a raw byte of a run, before the row asks whether the run is complete (R99 to R101, R104). -/
def State.runByte (s : State) (b : Byte) : State :=
  if s.sync = .afterEscape then
    { s with sync := .inFrame, buf := s.buf ++ literalOf b, syncSeen := syncSeenAfter s.syncSeen b,
             badEsc := badEscAfter s.badEsc b, rem := remAfter s.rem b }
  else if b = 0x54#8 then { s with sync := .afterEscape }
  else { s with buf := s.buf ++ [b], syncSeen := syncSeenAfter s.syncSeen b, rem := s.rem - 1 }

/-- The same for several bytes. -/
def State.runBytes (s : State) (bs : List Byte) : State := bs.foldl State.runByte s

@[simp] theorem State.runBytes_nil (s : State) : s.runBytes [] = s := rfl

@[simp] theorem State.runBytes_cons (s : State) (b : Byte) (bs : List Byte) :
    s.runBytes (b :: bs) = (s.runByte b).runBytes bs := rfl

theorem State.runByte_afterEscape {s : State} (hsync : s.sync = .afterEscape) (b : Byte) :
    s.runByte b =
      { s with sync := .inFrame, buf := s.buf ++ literalOf b, syncSeen := syncSeenAfter s.syncSeen b,
               badEsc := badEscAfter s.badEsc b, rem := remAfter s.rem b } := if_pos hsync

theorem State.runByte_escape {s : State} (hsync : s.sync = .inFrame) :
    s.runByte 0x54#8 = { s with sync := .afterEscape } :=
  (if_neg (by rw [hsync]; nofun)).trans (if_pos rfl)

theorem State.runByte_of_ne {s : State} {b : Byte} (hsync : s.sync = .inFrame) (h54 : b ≠ 0x54#8) :
    s.runByte b =
      { s with buf := s.buf ++ [b], syncSeen := syncSeenAfter s.syncSeen b, rem := s.rem - 1 } :=
  (if_neg (by rw [hsync]; nofun)).trans (if_neg h54)

/-- An open run: what R24 items 3 and 4 leave of a `LENGTH`-mode state with a lead byte. -/
structure State.InRun (s : State) : Prop where
  mode_eq : s.mode = .length
  buf_ne : s.buf ≠ []
  sync_ne : s.sync ≠ .seekingStart
  rem_ne : s.rem ≠ 0

theorem Sync.inFrame_or_afterEscape {q : Sync} (h : q ≠ .seekingStart) : q = .inFrame ∨ q = .afterEscape := by
  cases q with
  | seekingStart => exact absurd rfl h
  | inFrame => exact .inl rfl
  | afterEscape => exact .inr rfl

theorem State.Invariant.inRun {s : State} (hinv : s.Invariant) (hmode : s.mode = .length) (hne : s.buf ≠ []) :
    s.InRun := by
  obtain ⟨hsync, hrem, -, -⟩ := hinv.run_open hmode hne
  exact ⟨hmode, hne, hsync, Nat.one_le_iff_ne_zero.mp hrem⟩

section
variable {s : State}

theorem State.runByte_rem (s : State) (b : Byte) (h : s.sync ≠ .seekingStart) :
    (s.runByte b).rem = remAfter s.rem b := by
  obtain hsync | hsync := Sync.inFrame_or_afterEscape h
  · by_cases h54 : b = 0x54#8
    · rw [h54, State.runByte_escape hsync, remAfter_escape]
    · rw [State.runByte_of_ne hsync h54, remAfter_of_ne _ h54]
  · rw [State.runByte_afterEscape hsync]

theorem State.runByte_keepsHostSide (s : State) (b : Byte) : s.KeepsHostSide (s.runByte b) := by
  unfold State.runByte
  split_ifs <;> exact ⟨rfl, rfl, rfl, rfl, rfl⟩

theorem State.runBytes_keepsHostSide (s : State) (bs : List Byte) : s.KeepsHostSide (s.runBytes bs) := by
  induction bs generalizing s with
  | nil => exact ⟨rfl, rfl, rfl, rfl, rfl⟩
  | cons b bs ih =>
    obtain ⟨hmode, hml, hinput, hpos, htrace⟩ := ih (s.runByte b)
    obtain ⟨hmode', hml', hinput', hpos', htrace'⟩ := s.runByte_keepsHostSide b
    exact ⟨hmode.trans hmode', hml.trans hml', hinput.trans hinput', hpos.trans hpos', htrace.trans htrace'⟩

/-- No raw byte takes a byte out of the buffer. -/
theorem State.runByte_buf (s : State) (b : Byte) : ∃ w, (s.runByte b).buf = s.buf ++ w := by
  unfold State.runByte
  split_ifs
  · exact ⟨_, rfl⟩
  · exact ⟨[], (List.append_nil _).symm⟩
  · exact ⟨_, rfl⟩

theorem State.runBytes_buf (s : State) (bs : List Byte) : ∃ w, (s.runBytes bs).buf = s.buf ++ w := by
  induction bs generalizing s with
  | nil => exact ⟨[], (List.append_nil _).symm⟩
  | cons b bs ih =>
    obtain ⟨w, hw⟩ := s.runByte_buf b
    obtain ⟨w', hw'⟩ := ih (s.runByte b)
    exact ⟨w ++ w', by rw [State.runBytes_cons, hw', hw, List.append_assoc]⟩

theorem State.runByte_sync_ne (s : State) (b : Byte) (h : s.sync ≠ .seekingStart) :
    (s.runByte b).sync ≠ .seekingStart := by
  unfold State.runByte
  split_ifs
  · nofun
  · nofun
  · exact h

/-- An open run stays one until its counter is 0. -/
theorem State.InRun.runByte (h : s.InRun) {b : Byte} (hrem : remAfter s.rem b ≠ 0) : (s.runByte b).InRun := by
  obtain ⟨w, hw⟩ := s.runByte_buf b
  refine ⟨(s.runByte_keepsHostSide b).mode_eq.trans h.mode_eq, ?_, s.runByte_sync_ne b h.sync_ne, ?_⟩
  · rw [hw]
    exact List.append_ne_nil_of_left_ne_nil h.buf_ne w
  · rwa [s.runByte_rem b h.sync_ne]

/-- Every raw byte of an open run is taken by `runByte`, which completes the run where it brings the counter to 0. -/
theorem State.InRun.takes (h : s.InRun) (b : Byte) : s.Takes (.byte b) (s.runByte b).completeIfDone := by
  obtain ⟨a, p, hbuf⟩ := List.exists_cons_of_ne_nil h.buf_ne
  obtain hsync | hsync := Sync.inFrame_or_afterEscape h.sync_ne
  · by_cases h54 : b = 0x54#8
    · subst h54
      rw [State.runByte_escape hsync]
      have hopen : ({ s with sync := .afterEscape } : State).completeIfDone =
          { s with sync := .afterEscape, out := .none } := State.completeIfDone_of_rem_ne h.rem_ne
      rw [hopen]
      exact .escape hsync rfl
    · rw [State.runByte_of_ne hsync h54, hbuf]
      exact .runByte h.mode_eq hsync hbuf h54
  · rw [State.runByte_afterEscape hsync, hbuf]
    exact .runCode h.mode_eq hsync hbuf

/-- An open run whose counter does not reach 0 takes the byte in silence. -/
theorem State.InRun.takes_open (h : s.InRun) {b : Byte} (hrem : remAfter s.rem b ≠ 0) :
    s.Takes (.byte b) ((s.runByte b).emit .none) := by
  have hopen : (s.runByte b).completeIfDone = (s.runByte b).emit .none :=
    State.completeIfDone_of_rem_ne (by rwa [s.runByte_rem b h.sync_ne])
  exact hopen ▸ h.takes b

/-- R106: bytes that do not bring the counter to 0 are read in silence, and the run stays open. -/
theorem State.InRun.reads_open {bs : List Byte} (h : s.InRun) (hopen : Reference.takeRun bs s.rem = none) :
    s.Reads bs [] (s.runBytes bs) := by
  induction bs generalizing s with
  | nil => exact .refl s
  | cons b bs ih =>
    obtain ⟨k, hk⟩ := Nat.exists_eq_succ_of_ne_zero h.rem_ne
    rw [hk, Reference.takeRun_cons_succ, Option.map_eq_none_iff, ← Nat.succ_eq_add_one, ← hk] at hopen
    have hrem : remAfter s.rem b ≠ 0 := fun hzero => by rw [hzero, Reference.takeRun_zero] at hopen; cases hopen
    have hrest := ih (h.runByte hrem) (by rwa [s.runByte_rem b h.sync_ne])
    exact .cons_silent (h.takes_open hrem) rfl (hrest.emit .none)

/-- A run does not end in an `ESCAPE` that opens a pair: that byte takes no unit of the counter. -/
theorem State.InRun.runByte_sync_of_last (h : s.InRun) {b : Byte} (hrem : remAfter s.rem b = 0) :
    (s.runByte b).sync = .inFrame := by
  have h54 : b ≠ 0x54#8 := by
    rintro rfl
    exact h.rem_ne ((remAfter_escape _).symm.trans hrem)
  obtain hsync | hsync := Sync.inFrame_or_afterEscape h.sync_ne
  · rw [State.runByte_of_ne hsync h54]
    exact hsync
  · rw [State.runByte_afterEscape hsync]

/-- R105: the raw bytes of a run are read in silence up to the last, in whose step the run ends. -/
theorem State.InRun.reads_run {bs run rest : List Byte} (h : s.InRun)
    (hrun : Reference.takeRun bs s.rem = some (run, rest)) :
    (s.runBytes run).sync = .inFrame ∧
      ∃ init b u, run = init ++ [b] ∧ s.Reads init [] u ∧ u.Takes (.byte b) (s.runBytes run).runComplete := by
  obtain ⟨k, hk⟩ := Nat.exists_eq_succ_of_ne_zero h.rem_ne
  induction bs generalizing s run k with
  | nil => rw [hk] at hrun; cases hrun
  | cons b bs ih =>
    rw [hk, Reference.takeRun_cons_succ, ← Nat.succ_eq_add_one, ← hk] at hrun
    obtain ⟨⟨run', rest'⟩, hrest, hcons⟩ := Option.map_eq_some_iff.mp hrun
    cases hcons
    by_cases hrem : remAfter s.rem b = 0
    · rw [hrem, Reference.takeRun_zero] at hrest
      cases hrest
      refine ⟨h.runByte_sync_of_last hrem, [], b, s, rfl, .refl s, ?_⟩
      rw [State.runBytes_cons, State.runBytes_nil,
        ← State.completeIfDone_of_rem_zero ((s.runByte_rem b h.sync_ne).trans hrem)]
      exact h.takes b
    · obtain ⟨j, hj⟩ := Nat.exists_eq_succ_of_ne_zero (h.runByte hrem).rem_ne
      obtain ⟨hsync, init, c, u, rfl, hread, hlast⟩ := ih (h.runByte hrem) (by rwa [s.runByte_rem b h.sync_ne]) j hj
      exact ⟨hsync, b :: init, c, u, rfl, .cons_silent (h.takes_open hrem) rfl (hread.emit .none), hlast⟩

end

/-- R14: `sync_seen` after some raw bytes of a run. -/
theorem State.runBytes_syncSeen (s : State) (bs : List Byte) (h : s.sync ≠ .seekingStart) :
    (s.runBytes bs).syncSeen = true ↔ s.syncSeen = true ∨ 0x55#8 ∈ bs := by
  induction bs generalizing s with
  | nil => simp
  | cons b bs ih =>
    have hone : (s.runByte b).syncSeen = true ↔ s.syncSeen = true ∨ b = 0x55#8 := by
      obtain hsync | hsync := Sync.inFrame_or_afterEscape h
      · by_cases h54 : b = 0x54#8
        · rw [h54, State.runByte_escape hsync]
          simp
        · rw [State.runByte_of_ne hsync h54]
          exact syncSeenAfter_iff s.syncSeen b
      · rw [State.runByte_afterEscape hsync]
        exact syncSeenAfter_iff s.syncSeen b
    rw [State.runBytes_cons, ih _ (s.runByte_sync_ne b h), hone, List.mem_cons, or_assoc, eq_comm (a := b)]

/-- R15: `bad_esc` is sticky. -/
theorem State.runBytes_badEsc_of_badEsc {s : State} (bs : List Byte) (h : s.badEsc = true) :
    (s.runBytes bs).badEsc = true := by
  induction bs generalizing s with
  | nil => exact h
  | cons b bs ih =>
    refine ih ?_
    unfold State.runByte
    split_ifs
    · exact (badEscAfter_iff _ b).mpr (.inl h)
    · exact h
    · exact h

theorem prepend_eq_some {v : Byte} {rest : Option (List Byte)} {vs : List Byte}
    (h : Reference.prepend v rest = some vs) : ∃ ws, rest = some ws ∧ vs = v :: ws := by
  cases rest with
  | none => cases h
  | some ws => exact ⟨ws, rfl, (Option.some.inj h).symm⟩

theorem prepend_eq_none {v : Byte} {rest : Option (List Byte)} (h : Reference.prepend v rest = none) : rest = none := by
  cases rest with
  | none => rfl
  | some ws => cases h

/-- An `ESCAPE` and its code byte, taken together. -/
theorem State.runByte_pair {s : State} (hsync : s.sync = .inFrame) (c : Byte) :
    (s.runByte 0x54#8).runByte c =
      { s with buf := s.buf ++ literalOf c, syncSeen := syncSeenAfter s.syncSeen c, badEsc := badEscAfter s.badEsc c,
               rem := remAfter s.rem c } := by
  rw [State.runByte_escape hsync, State.runByte_afterEscape rfl, ← hsync]

/-- R91 step 5: a run that can be unescaped has put its payload into the buffer and set no `bad_esc`; one that cannot
has set it, or ends in an `ESCAPE`. -/
theorem State.runBytes_of_unescapeRun {s : State} (hsync : s.sync = .inFrame) (run : List Byte) :
    (∀ vs, Reference.unescapeRun run = some vs →
      (s.runBytes run).buf = s.buf ++ vs ∧ (s.runBytes run).badEsc = s.badEsc) ∧
    (Reference.unescapeRun run = none → (s.runBytes run).badEsc = true ∨ (s.runBytes run).sync = .afterEscape) := by
  induction run using Reference.unescapeRun.induct generalizing s with
  | case1 => simp [Reference.unescapeRun]
  | case2 =>
    rw [State.runBytes_cons, State.runBytes_nil, show Wire.escape = 0x54#8 from rfl, State.runByte_escape hsync]
    exact ⟨nofun, fun _ => .inr rfl⟩
  | case3 b h54 =>
    rw [State.runBytes_cons, State.runBytes_nil, State.runByte_of_ne hsync h54]
    simp [Reference.unescapeRun, h54]
  | case4 c rest hcode ih =>
    rw [State.runBytes_cons, State.runBytes_cons, show Wire.escape = 0x54#8 from rfl, State.runByte_pair hsync,
      literalOf_of_isCode hcode, badEscAfter_of_isCode _ hcode]
    obtain ⟨hsome, hnone⟩ := ih (s := { s with
      buf := s.buf ++ [unesc c], syncSeen := syncSeenAfter s.syncSeen c, rem := remAfter s.rem c }) hsync
    have hunescape : Reference.unescapeRun (0x54#8 :: c :: rest) =
        Reference.prepend (unesc c) (Reference.unescapeRun rest) := by
      simp [Reference.unescapeRun, Wire.escape, hcode]
    rw [hunescape]
    refine ⟨fun vs hvs => ?_, fun h => hnone (prepend_eq_none h)⟩
    obtain ⟨ws, hws, rfl⟩ := prepend_eq_some hvs
    obtain ⟨hbuf, hbad⟩ := hsome ws hws
    exact ⟨by rw [hbuf, List.append_assoc]; rfl, hbad⟩
  | case5 c rest hcode =>
    obtain ⟨h00, h01⟩ := Wire.ne_of_not_isCode (Bool.eq_false_iff.mpr hcode)
    have hbad : badEscAfter s.badEsc c = true := (badEscAfter_iff _ c).mpr (.inr ⟨h00, h01⟩)
    have hunescape : Reference.unescapeRun (0x54#8 :: c :: rest) = none := by
      simp [Reference.unescapeRun, Wire.escape, hcode]
    rw [State.runBytes_cons, State.runBytes_cons, show Wire.escape = 0x54#8 from rfl, State.runByte_pair hsync,
      hunescape]
    exact ⟨nofun, fun _ => .inl (State.runBytes_badEsc_of_badEsc rest hbad)⟩
  | case6 b c rest h54 ih =>
    rw [State.runBytes_cons, State.runByte_of_ne hsync h54]
    obtain ⟨hsome, hnone⟩ := ih (s := { s with
      buf := s.buf ++ [b], syncSeen := syncSeenAfter s.syncSeen b, rem := s.rem - 1 }) hsync
    have hunescape : Reference.unescapeRun (b :: c :: rest) =
        Reference.prepend b (Reference.unescapeRun (c :: rest)) := by
      simp [Reference.unescapeRun, h54]
    rw [hunescape]
    refine ⟨fun vs hvs => ?_, fun h => hnone (prepend_eq_none h)⟩
    obtain ⟨ws, hws, rfl⟩ := prepend_eq_some hvs
    obtain ⟨hbuf, hbad⟩ := hsome ws hws
    exact ⟨by rw [hbuf, List.append_assoc]; rfl, hbad⟩

end Sys2Proof.Machine
end

section
/-! PROOFS. Byte-at-a-time decoding of a run against the batch procedure (41_framing_length_mode.md R91, R92, R109,
70_reset_and_hazards.md R201). -/

namespace Sys2Proof.Machine

/-- A `LENGTH`-mode state right after a lead byte with a number of bytes to come (R98). -/
structure State.AtRunStart (s : State) (a : Byte) (e : Nat) : Prop where
  mode_eq : s.mode = .length
  sync_eq : s.sync = .inFrame
  buf_eq : s.buf = [a]
  rem_eq : s.rem = e + 1
  syncSeen_eq : s.syncSeen = false
  badEsc_eq : s.badEsc = false
  expectedLen_eq : expectedLen s.ml a = some (e + 1)

theorem State.AtRunStart.inRun {s : State} {a : Byte} {e : Nat} (h : s.AtRunStart a e) : s.InRun where
  mode_eq := h.mode_eq
  buf_ne := by rw [h.buf_eq]; nofun
  sync_ne := by rw [h.sync_eq]; nofun
  rem_ne := by rw [h.rem_eq]; nofun

/-- Where every register is written, the configuration and the input side decide the rest of the state. -/
theorem State.KeepsHostSide.registers_eq {s r : State} (h : s.KeepsHostSide r) (q : Sync) (buf : List Byte) (n : Nat)
    (seen bad : Bool) (o : Output) :
    ({ r with sync := q, buf := buf, rem := n, syncSeen := seen, badEsc := bad, out := o } : State) =
      { s with sync := q, buf := buf, rem := n, syncSeen := seen, badEsc := bad, out := o } := by
  rw [h.mode_eq, h.ml_eq, h.input_eq, h.pos_eq, h.trace_eq]

/-- What the procedure R91 answers for a lead byte with a number of bytes to come, by its run. -/
theorem batch_eq_done {ml : Memory} {a : Byte} {e : Nat} {stream run rest : List Byte} {out : Output} {next : Sync}
    (hlen : expectedLen ml a = some (e + 1)) (h : Reference.batch ml a stream = .done out next run rest) :
    Reference.takeRun stream (e + 1) = some (run, rest) ∧
    ((0x55#8 ∈ run ∧ next = .seekingStart ∧ out = .err .unexpectedSync (some a)) ∨
     (0x55#8 ∉ run ∧ Reference.unescapeRun run = none ∧ next = .seekingStart ∧ out = .err .pvEscape (some a)) ∨
     (0x55#8 ∉ run ∧ ∃ payload, Reference.unescapeRun run = some payload ∧ next = .inFrame ∧
        out = dispatch ml ⟨a, payload⟩)) := by
  simp only [Reference.batch, hlen, Reference.readRun_eq_takeRun] at h
  cases hrun : Reference.takeRun stream (e + 1) with
  | none => rw [hrun] at h; cases h
  | some r =>
    obtain ⟨run', rest'⟩ := r
    rw [hrun] at h
    by_cases h55 : 0x55#8 ∈ run'
    · simp only [Wire.start, h55, if_true] at h
      cases h
      exact ⟨rfl, .inl ⟨h55, rfl, rfl⟩⟩
    · simp only [Wire.start, h55, if_false] at h
      cases hpayload : Reference.unescapeRun run' with
      | none =>
        rw [hpayload] at h
        cases h
        exact ⟨rfl, .inr (.inl ⟨h55, hpayload, rfl, rfl⟩)⟩
      | some payload =>
        rw [hpayload] at h
        cases h
        exact ⟨rfl, .inr (.inr ⟨h55, payload, hpayload, rfl, rfl⟩)⟩

theorem batch_eq_cutShort {ml : Memory} {a : Byte} {e : Nat} {stream : List Byte}
    (hlen : expectedLen ml a = some (e + 1)) (h : Reference.batch ml a stream = .cutShort) :
    Reference.takeRun stream (e + 1) = none := by
  simp only [Reference.batch, hlen, Reference.readRun_eq_takeRun] at h
  cases hrun : Reference.takeRun stream (e + 1) with
  | none => rfl
  | some r =>
    rw [hrun] at h
    simp only at h
    split_ifs at h
    cases hpayload : Reference.unescapeRun r.1 <;> rw [hpayload] at h <;> cases h

/-- R105 against R91 steps 4 to 6: the registers that a run has left give the output of the procedure. -/
theorem State.AtRunStart.runComplete_eq {s : State} {a : Byte} {e : Nat} {stream run rest : List Byte} {out : Output}
    {next : Sync} (h : s.AtRunStart a e) (hbatch : Reference.batch s.ml a stream = .done out next run rest)
    (hsync : (s.runBytes run).sync = .inFrame) :
    (s.runBytes run).runComplete = { s with sync := next, buf := [], rem := 0, out := out } := by
  obtain ⟨-, hresult⟩ := batch_eq_done h.expectedLen_eq hbatch
  have hseen_iff := s.runBytes_syncSeen run h.inRun.sync_ne
  rw [h.syncSeen_eq, or_iff_right Bool.false_ne_true] at hseen_iff
  obtain ⟨hpayload, hbad_escape⟩ := State.runBytes_of_unescapeRun h.sync_eq run
  obtain ⟨w, hbuf⟩ := s.runBytes_buf run
  rw [h.buf_eq] at hbuf
  have hregisters (q : Sync) (o : Output) :
      ({ s.runBytes run with sync := q, buf := [], rem := 0, syncSeen := false, badEsc := false, out := o } : State) =
        { s with sync := q, buf := [], rem := 0, out := o } := by
    rw [(s.runBytes_keepsHostSide run).registers_eq]
    simp only [h.syncSeen_eq, h.badEsc_eq]
  obtain ⟨h55, rfl, rfl⟩ | ⟨h55, hnone, rfl, rfl⟩ | ⟨h55, payload, hsome, rfl, rfl⟩ := hresult
  · have hseen := hseen_iff.mpr h55
    simpa [hseen, State.raise_eq, hregisters] using runComplete_cases hbuf
  · have hseen : (s.runBytes run).syncSeen = false := Bool.eq_false_iff.mpr (mt hseen_iff.mp h55)
    have hbad : (s.runBytes run).badEsc = true := (hbad_escape hnone).resolve_right (by rw [hsync]; nofun)
    simpa [hseen, hbad, State.raise_eq, hregisters] using runComplete_cases hbuf
  · have hseen : (s.runBytes run).syncSeen = false := Bool.eq_false_iff.mpr (mt hseen_iff.mp h55)
    obtain ⟨hbuf_eq, hbad_eq⟩ := hpayload payload hsome
    have hbad : (s.runBytes run).badEsc = false := hbad_eq.trans h.badEsc_eq
    have hcons : (s.runBytes run).buf = a :: payload := by rw [hbuf_eq, h.buf_eq]; rfl
    have hend : (s.runBytes run).runComplete =
        { s.runBytes run with sync := .inFrame, buf := [], rem := 0, syncSeen := false, badEsc := false,
                              out := dispatch (s.runBytes run).ml ⟨a, payload⟩ } := by
      simpa [hseen, hbad, State.emit] using runComplete_cases hcons
    rw [hend, hregisters, (s.runBytes_keepsHostSide run).ml_eq]

/-- R92: the machine reads the raw run of the procedure, in silence up to its last byte. -/
theorem State.AtRunStart.reads_batch {s : State} {a : Byte} {e : Nat} {stream run rest : List Byte} {out : Output}
    {next : Sync} (h : s.AtRunStart a e) (hbatch : Reference.batch s.ml a stream = .done out next run rest) :
    ∃ init b u, run = init ++ [b] ∧ s.Reads init [] u ∧
      u.Takes (.byte b) { s with sync := next, buf := [], rem := 0, out := out } := by
  obtain ⟨htake, -⟩ := batch_eq_done h.expectedLen_eq hbatch
  obtain ⟨hsync, init, b, u, hsplit, hread, hlast⟩ := h.inRun.reads_run (h.rem_eq.symm ▸ htake)
  exact ⟨init, b, u, hsplit, hread, h.runComplete_eq hbatch hsync ▸ hlast⟩

/-- The same as one reading, up to the output port. -/
theorem State.AtRunStart.reads_done {s : State} {a : Byte} {e : Nat} {stream run rest : List Byte} {out : Output}
    {next : Sync} (h : s.AtRunStart a e) (hbatch : Reference.batch s.ml a stream = .done out next run rest) :
    s.Reads run (observation (run.length - 1) out) { s with sync := next, buf := [], rem := 0, out := out } := by
  obtain ⟨init, b, u, rfl, hread, hlast⟩ := h.reads_batch hbatch
  rw [List.length_append, List.length_singleton, Nat.add_sub_cancel]
  exact hread.snoc hlast

/-- The procedure always has an output to give. -/
theorem observation_of_batch {ml : Memory} {a : Byte} {e : Nat} {stream run rest : List Byte} {out : Output}
    {next : Sync} (hlen : expectedLen ml a = some (e + 1))
    (hbatch : Reference.batch ml a stream = .done out next run rest) (k : Nat) : observation k out = [(k, out)] := by
  obtain ⟨-, ⟨-, -, rfl⟩ | ⟨-, -, -, rfl⟩ | ⟨-, payload, -, -, rfl⟩⟩ := batch_eq_done hlen hbatch
  · rfl
  · rfl
  · exact observation_dispatch k ml _

/-- Settles O49: a stream that cuts the run short is read in silence; otherwise the run is read, in silence up to its
last byte. -/
theorem byteStepsRealiseTheBatchProcedure : Obligations.ByteStepsRealiseTheBatchProcedure := by
  unfold Obligations.ByteStepsRealiseTheBatchProcedure
  intro s a e stream hmode hsync hbuf hrem hseen hbad hlen hinput
  have h : s.AtRunStart a e := ⟨hmode, hsync, hbuf, hrem, hseen, hbad, hlen⟩
  constructor
  · intro hcut
    have hopen : Reference.takeRun stream s.rem = none := hrem ▸ batch_eq_cutShort hlen hcut
    obtain ⟨o, hends⟩ := (h.inRun.reads_open hopen).endsIn hinput
    exact ⟨_, hends, List.append_nil _⟩
  · intro out next run rest hbatch
    obtain ⟨htake, -⟩ := batch_eq_done hlen hbatch
    have hstream : stream = run ++ rest := Reference.takeRun_append htake
    refine ⟨hstream, ?_⟩
    obtain ⟨init, b, u, rfl, hread, hlast⟩ := h.reads_batch hbatch
    obtain ⟨o, hinit⟩ := hread.runsTo s.out (.byte b :: bytesIn rest) s.pos s.trace
    have hone := hlast.runsTo_one o (bytesIn rest) (s.pos + init.length) s.trace
    rw [delayed_nil, List.append_nil] at hinit
    have hrun := State.runsTo_add hinit hone
    have hstart : bytesIn init ++ .byte b :: bytesIn rest = s.input := by rw [hinput, hstream]; simp [bytesIn]
    rw [hstart, observation_of_batch hlen hbatch] at hrun
    rw [List.length_append, List.length_singleton]
    exact hrun

/-- A run of `ESCAPE` bytes takes no unit of the counter. -/
theorem takeRun_replicate_escape (n k : Nat) : Reference.takeRun (List.replicate n 0x54#8) (k + 1) = none := by
  induction n with
  | zero => rfl
  | succ n ih => rw [List.replicate_succ, Reference.takeRun_cons_succ, remAfter_escape, ih]; rfl

theorem State.runByte_escape_buf_rem {s : State} (h : s.sync ≠ .seekingStart) :
    (s.runByte 0x54#8).buf = s.buf ∧ (s.runByte 0x54#8).rem = s.rem := by
  obtain hsync | hsync := Sync.inFrame_or_afterEscape h
  · rw [State.runByte_escape hsync]
    exact ⟨rfl, rfl⟩
  · rw [State.runByte_afterEscape hsync]
    exact ⟨List.append_nil _, remAfter_escape _⟩

theorem State.runBytes_escape_buf_rem {s : State} (h : s.sync ≠ .seekingStart) (n : Nat) :
    (s.runBytes (List.replicate n 0x54#8)).buf = s.buf ∧ (s.runBytes (List.replicate n 0x54#8)).rem = s.rem := by
  induction n generalizing s with
  | zero => exact ⟨rfl, rfl⟩
  | succ n ih =>
    obtain ⟨hbuf, hrem⟩ := State.runByte_escape_buf_rem h
    obtain ⟨hbufs, hrems⟩ := ih (s.runByte_sync_ne 0x54#8 h)
    exact ⟨hbufs.trans hbuf, hrems.trans hrem⟩

/-- Settles O17: `ESCAPE` bytes leave the run open, and write no byte and no unit. -/
theorem escapesAloneKeepRunOpen : Obligations.EscapesAloneKeepRunOpen := by
  unfold Obligations.EscapesAloneKeepRunOpen
  intro s n hinv hmode hne hinput
  have hrun : s.InRun := hinv.inRun hmode hne
  have hopen : Reference.takeRun (List.replicate n 0x54#8) s.rem = none := by
    obtain ⟨k, hk⟩ := Nat.exists_eq_succ_of_ne_zero hrun.rem_ne
    rw [hk]
    exact takeRun_replicate_escape n k
  obtain ⟨hbuf, hrem⟩ := State.runBytes_escape_buf_rem hrun.sync_ne n
  obtain ⟨o, hends⟩ := (hrun.reads_open hopen).endsIn hinput
  exact ⟨_, hends, List.append_nil _, hbuf, hrem⟩

/-- A run of `START` bytes ends after as many as the counter has units. -/
theorem takeRun_replicate_start (k n : Nat) :
    Reference.takeRun (List.replicate (k + n) 0x55#8) k = some (List.replicate k 0x55#8, List.replicate n 0x55#8) := by
  induction k with
  | zero => rw [Nat.zero_add, Reference.takeRun_zero]; rfl
  | succ k ih =>
    rw [Nat.succ_add, List.replicate_succ, Reference.takeRun_cons_succ, remAfter_of_ne _ (by decide),
      Nat.add_sub_cancel, ih]
    rfl

/-- R201, the goal of the recovery: some outputs, then the lead position or an empty frame. -/
def State.Recovers (s : State) (bs : List Byte) : Prop :=
  ∃ es t, s.Reads bs es t ∧ t.sync = .inFrame ∧ t.buf = []

theorem State.Recovers.of_reads {s u : State} {bs cs : List Byte} {es : List (Nat × Output)} (h : s.Reads bs es u)
    (h' : u.Recovers cs) : s.Recovers (bs ++ cs) := by
  obtain ⟨_, t, hread, hend⟩ := h'
  exact ⟨_, t, h.append hread, hend⟩

/-- R75, R95: idle fill. -/
theorem State.recovers_of_lead {s : State} (hsync : s.sync = .inFrame) (hbuf : s.buf = []) (n : Nat) :
    s.Recovers (List.replicate n 0x55#8) := by
  induction n generalizing s with
  | zero => exact ⟨_, s, .refl s, hsync, hbuf⟩
  | succ n ih => exact .of_reads (.of_takes (.fill hsync hbuf rfl)) (ih (s := { s with out := .none }) hsync hbuf)

theorem State.recovers_of_seeking {s : State} (hmode : s.mode = .length) (hsync : s.sync = .seekingStart) (n : Nat) :
    s.Recovers (List.replicate (n + 1) 0x55#8) :=
  .of_reads (.of_takes (.openLength hmode hsync rfl)) (State.recovers_of_lead rfl rfl n)

/-- R201: the `START` bytes complete the open run, whose end they make an error; the next one opens a frame. -/
theorem State.InRun.recovers {s : State} (h : s.InRun) (n : Nat) :
    s.Recovers (List.replicate (s.rem + (n + 1)) 0x55#8) := by
  obtain ⟨-, init, b, u, hsplit, hread, hlast⟩ := h.reads_run (takeRun_replicate_start s.rem (n + 1))
  have hseen : (s.runBytes (List.replicate s.rem 0x55#8)).syncSeen = true :=
    (s.runBytes_syncSeen _ h.sync_ne).mpr (.inr (List.mem_replicate.mpr ⟨h.rem_ne, rfl⟩))
  have hend : (s.runBytes (List.replicate s.rem 0x55#8)).runComplete =
      (s.runBytes (List.replicate s.rem 0x55#8)).raise .unexpectedSync
        (s.runBytes (List.replicate s.rem 0x55#8)).lead := if_pos hseen
  have hmode := (s.runBytes_keepsHostSide (List.replicate s.rem 0x55#8)).mode_eq.trans h.mode_eq
  rw [hend] at hlast
  rw [List.replicate_add, hsplit]
  refine .of_reads (hread.snoc hlast) ?_
  apply State.recovers_of_seeking
  exacts [hmode, rfl]

theorem Memory.read_le_of_boundedBy {ml : Memory} {l n : Nat} {a : Byte} (hbound : ml.boundedBy l = true)
    (hread : ml.read a = some n) : n ≤ l := by
  induction ml with
  | nil => cases hread
  | cons e rest ih =>
    obtain ⟨x, v⟩ := e
    simp only [Memory.boundedBy, List.all_cons, Bool.and_eq_true, decide_eq_true_eq] at hbound
    obtain ⟨hv, hrest⟩ := hbound
    simp only [Memory.read] at hread
    split_ifs at hread with hx
    · cases hread
      exact hv
    · exact ih hrest hread

/-- R6, R37: the longest legal payload. -/
theorem expectedLen_le_of_boundedBy {ml : Memory} {l n : Nat} {a : Byte} (hbound : ml.boundedBy l = true)
    (h : expectedLen ml a = some n) : n ≤ max 16 l := by
  have fixed {k : Nat} (hfixed : Wire.fixedLength a = some k) (hk : k ≤ 16) : n ≤ max 16 l := by
    cases h.symm.trans (expectedLen_of_fixedLength ml hfixed)
    exact hk.trans (le_max_left _ _)
  obtain rfl | rfl | rfl | rfl | rfl | hmodule := Wire.lead_cases a
  · exact fixed rfl (by decide)
  · exact fixed rfl (by decide)
  · exact fixed rfl (by decide)
  · exact fixed rfl (by decide)
  · exact fixed rfl (by decide)
  · have hread : ml.read a = some n := (expectedLen_of_isModule ml hmodule).symm.trans h
    exact (Memory.read_le_of_boundedBy hbound hread).trans (le_max_right _ _)

/-- R24 item 4: the counter of an open run is at most the longest expected length. -/
theorem State.Invariant.rem_le {s : State} {l : Nat} (hinv : s.Invariant) (hmode : s.mode = .length) (hne : s.buf ≠ [])
    (hbound : s.ml.boundedBy l = true) : s.rem ≤ max 16 l := by
  obtain ⟨a, p, hbuf⟩ := List.exists_cons_of_ne_nil hne
  obtain ⟨-, hle, -⟩ := hinv.run_bounds hmode hbuf
  cases hlen : expectedLen s.ml a with
  | none => rw [hlen] at hle; exact hle.trans (Nat.zero_le _)
  | some n => rw [hlen] at hle; exact hle.trans (expectedLen_le_of_boundedBy hbound hlen)

/-- Settles O56: from the lead position the bytes are fill, a seeking state opens at the first, an open escape at the
lead position is reported at the first, and an open run ends within `m` of them. -/
theorem idleStartsRecoverLengthMode : Obligations.IdleStartsRecoverLengthMode := by
  unfold Obligations.IdleStartsRecoverLengthMode
  intro s m hinv hmode hbound hm hinput
  have hrecovers : s.Recovers (List.replicate (m + 1) 0x55#8) := by
    by_cases hbuf : s.buf = []
    · cases hsync : s.sync with
      | seekingStart => exact State.recovers_of_seeking hmode hsync m
      | inFrame => exact State.recovers_of_lead hsync hbuf (m + 1)
      | afterEscape =>
        obtain ⟨n, rfl⟩ : ∃ n, m = n + 1 := ⟨m - 1, by omega⟩
        refine .of_reads (.of_takes (.badEscape (.inr hbuf) hsync rfl)) ?_
        apply State.recovers_of_seeking
        exacts [hmode, rfl]
    · have hrem : s.rem ≤ m := (hinv.rem_le hmode hbuf hbound).trans (max_le hm le_rfl)
      have hsplit : m + 1 = s.rem + ((m - s.rem) + 1) := by omega
      rw [hsplit]
      exact (hinv.inRun hmode hbuf).recovers (m - s.rem)
  obtain ⟨es, t, hread, hsync, hbuf⟩ := hrecovers
  obtain ⟨o, hends⟩ := hread.endsIn hinput
  exact ⟨_, hends, hsync, hbuf⟩

end Sys2Proof.Machine
end

section
/-! PROOFS. Encoded payloads as raw runs (30_encoding.md R51, 41_framing_length_mode.md R91): the procedure reads back
what the encoder wrote. -/

namespace Sys2Proof

theorem start_not_mem_escBytes (vs : List Byte) : 0x55#8 ∉ escBytes vs := by
  induction vs with
  | nil => nofun
  | cons v vs ih =>
    rw [escBytes_cons, List.mem_append, not_or]
    refine ⟨?_, ih⟩
    obtain ⟨-, h55, hself⟩ | ⟨c, hc, -, hpair⟩ := escByte_cases v
    · rw [hself, List.mem_singleton]
      exact Ne.symm h55
    · rw [hpair]
      obtain rfl | rfl := (Wire.isCode_iff c).mp hc <;> decide

theorem escByte_length_pos (v : Byte) : 1 ≤ (escByte v).length := by
  obtain ⟨-, -, hself⟩ | ⟨c, -, -, hpair⟩ := escByte_cases v
  · rw [hself]; exact le_rfl
  · rw [hpair]; exact Nat.le_add_left 1 1

namespace Reference

/-- R92: an encoded byte takes one unit of the counter. -/
theorem takeRun_escBytes (vs : List Byte) : takeRun (escBytes vs) vs.length = some (escBytes vs, []) := by
  induction vs with
  | nil => rfl
  | cons v vs ih =>
    rw [escBytes_cons, List.length_cons]
    obtain ⟨h54, -, hself⟩ | ⟨c, hc, -, hpair⟩ := escByte_cases v
    · rw [hself, List.singleton_append, takeRun_cons_succ, Machine.remAfter_of_ne _ h54, Nat.add_sub_cancel, ih]
      rfl
    · have h54 : c ≠ 0x54#8 := by
        rintro rfl
        exact nomatch hc
      rw [hpair, List.cons_append, takeRun_cons_succ, Machine.remAfter_escape, List.singleton_append, takeRun_cons_succ,
        Machine.remAfter_of_ne _ h54, Nat.add_sub_cancel, ih]
      rfl

theorem unescapeRun_cons_of_ne {b : Byte} (h54 : b ≠ 0x54#8) (bs : List Byte) :
    unescapeRun (b :: bs) = prepend b (unescapeRun bs) := by
  cases bs with
  | nil => exact (if_neg h54).trans rfl
  | cons c bs => exact if_neg h54

theorem unescapeRun_pair {c : Byte} (hc : Wire.isCode c = true) (bs : List Byte) :
    unescapeRun (0x54#8 :: c :: bs) = prepend (unesc c) (unescapeRun bs) := by
  simp [unescapeRun, Wire.escape, hc]

theorem unescapeRun_escBytes (vs : List Byte) : unescapeRun (escBytes vs) = some vs := by
  induction vs with
  | nil => rfl
  | cons v vs ih =>
    rw [escBytes_cons]
    obtain ⟨h54, -, hself⟩ | ⟨c, hc, rfl, hpair⟩ := escByte_cases v
    · rw [hself, List.singleton_append, unescapeRun_cons_of_ne h54, ih, prepend]
    · rw [hpair, List.cons_append, List.singleton_append, unescapeRun_pair hc, ih, prepend]

/-- R91: the procedure dispatches an encoded payload of the expected length. -/
theorem batch_escBytes {ml : Memory} {a : Byte} {p : List Byte} (hlen : expectedLen ml a = some p.length) :
    batch ml a (escBytes p) = .done (Machine.dispatch ml ⟨a, p⟩) .inFrame (escBytes p) [] := by
  simp only [batch, hlen, readRun_eq_takeRun, takeRun_escBytes, Wire.start, start_not_mem_escBytes, if_false,
    unescapeRun_escBytes]

end Reference

end Sys2Proof
end

section
/-! PROOFS. Streams in `LENGTH` mode (41_framing_length_mode.md R93 to R109): the lead position, frames of the expected
length, and sessions. -/

namespace Sys2Proof.Machine

theorem length_frameBody_pos (f : Frame) : 1 ≤ (frameBody f).length := by
  rw [frameBody, escBytes_cons, List.length_append]
  exact (escByte_length_pos _).trans (Nat.le_add_right _ _)

/-- The lead position: in a frame with nothing read of it (R24 item 3). -/
structure State.AtLead (s : State) : Prop where
  mode_eq : s.mode = .length
  sync_eq : s.sync = .inFrame
  buf_eq : s.buf = []
  clear : s.countersClear

/-- R98: what accepting a lead byte does to the registers does not depend on them. -/
theorem State.leadAccept_afterEscape (s : State) (a : Byte) :
    ({ s with sync := .afterEscape, out := .none } : State).leadAccept a = s.leadAccept a := by
  unfold State.leadAccept
  cases expectedLen s.ml a with
  | none => rfl
  | some n => cases n <;> rfl

namespace State.AtLead

variable {s : State} (h : s.AtLead)
include h

/-- Writing the registers of the lead position leaves it as it is. -/
theorem registers_eq (o : Output) :
    ({ s with sync := .inFrame, buf := [], rem := 0, syncSeen := false, badEsc := false, out := o } : State) =
      s.emit o := by
  obtain ⟨hrem, hseen, hbad⟩ := h.clear
  rw [State.emit, h.sync_eq, h.buf_eq, hrem, hseen, hbad]

/-- R95. -/
theorem reads_start : s.Reads [0x55#8] [] s :=
  (Reads.of_takes (.fill h.sync_eq h.buf_eq rfl)).emit_right s.out

/-- R97, R102: a lead byte, raw or as an escape sequence, is accepted in the step of its last raw byte. -/
theorem reads_lead (a : Byte) :
    s.Reads (escByte a) (observation ((escByte a).length - 1) (s.leadAccept a).out) (s.leadAccept a) := by
  obtain ⟨h54, h55, hself⟩ | ⟨c, hc, rfl, hpair⟩ := escByte_cases a
  · rw [hself]
    exact .of_takes (.lead h.mode_eq h.sync_eq h.buf_eq h54 h55)
  · have hescape : s.Reads [0x54#8] [] { s with sync := .afterEscape, out := .none } :=
      .of_takes (.escape h.sync_eq rfl)
    rw [hpair, ← s.leadAccept_afterEscape]
    exact hescape.snoc (.leadCode h.mode_eq rfl h.buf_eq hc)

/-- R98: a lead byte with a number of bytes to come opens a run, in silence. -/
theorem reads_runStart {a : Byte} {e : Nat} (hlen : expectedLen s.ml a = some (e + 1)) :
    s.Reads (escByte a) [] { s with buf := [a], rem := e + 1, out := .none } ∧
      ({ s with buf := [a], rem := e + 1, out := .none } : State).AtRunStart a e := by
  obtain ⟨-, hseen, hbad⟩ := h.clear
  have hregisters : s.leadAccept a = { s with buf := [a], rem := e + 1, out := .none } := by
    rw [State.leadAccept_of_succ hlen]
    simp only [h.sync_eq, hseen, hbad]
  have hlead := h.reads_lead a
  rw [hregisters] at hlead
  exact ⟨hlead, h.mode_eq, h.sync_eq, rfl, rfl, hseen, hbad, hlen⟩

/-- R98, R105: a frame body of the expected length is delivered in the step of its last byte, at the lead position
again. -/
theorem reads_body {f : Frame} (hlen : expectedLen s.ml f.address = some f.payload.length) :
    s.Reads (frameBody f) [((frameBody f).length - 1, .cmd (commandOf f))] s := by
  obtain ⟨a, p⟩ := f
  have hdispatch : dispatch s.ml ⟨a, p⟩ = .cmd (commandOf ⟨a, p⟩) := dispatch_of_expectedLen hlen
  cases p with
  | nil =>
    have hbody : frameBody ⟨a, []⟩ = escByte a := List.append_nil _
    have hout : (.cmd (if a = 0xFF#8 ∨ a = 0xFE#8 then .strobe a else .setChannels a []) : Output) =
        .cmd (commandOf ⟨a, []⟩) := (dispatch_nil_of_expectedLen_zero hlen).symm.trans hdispatch
    have hlead := h.reads_lead a
    rw [State.leadAccept_of_zero hlen, hout, h.registers_eq] at hlead
    rw [hbody]
    exact hlead.emit_right s.out
  | cons v vs =>
    obtain ⟨hlead, hstart⟩ := h.reads_runStart hlen
    have hread := hlead.append (hstart.reads_done (Reference.batch_escBytes hlen))
    have hlast : (escByte a).length + ((escBytes (v :: vs)).length - 1) = (frameBody ⟨a, v :: vs⟩).length - 1 := by
      have hpos := escByte_length_pos v
      simp only [frameBody, escBytes_cons, List.length_append]
      omega
    rw [List.nil_append, delayed_observation, observation_dispatch, hlast, hdispatch] at hread
    have hs : ({ s with sync := .inFrame, buf := [], rem := 0 } : State) = s := by
      rw [← h.sync_eq, ← h.buf_eq, ← h.clear.1]
    exact hs ▸ hread.emit_right s.out

/-- The same of a frame with its `START`, which fills. -/
theorem reads_frame {f : Frame} (hlen : expectedLen s.ml f.address = some f.payload.length) :
    s.Reads (encodeFrame f) [((encodeFrame f).length - 1, .cmd (commandOf f))] s := by
  have hread := h.reads_start.append (h.reads_body hlen)
  have hpos := length_frameBody_pos f
  have hlast : 1 + ((frameBody f).length - 1) = (encodeFrame f).length - 1 := by
    rw [length_encodeFrame]
    omega
  rw [List.nil_append, List.length_singleton, delayed_cons, delayed_nil, hlast] at hread
  exact hread

theorem reads_frames {fs : List Frame} (hlen : ∀ f ∈ fs, expectedLen s.ml f.address = some f.payload.length) :
    ∃ es, s.Reads (fs.flatMap encodeFrame) es s ∧ es.map Prod.snd = fs.map fun f => .cmd (commandOf f) := by
  induction fs with
  | nil => exact ⟨[], .refl s, rfl⟩
  | cons f fs ih =>
    obtain ⟨es, hread, hes⟩ := ih fun f hf => hlen f (List.mem_cons_of_mem _ hf)
    refine ⟨_, (h.reads_frame (hlen f List.mem_cons_self)).append hread, ?_⟩
    rw [List.map_append, map_snd_delayed, hes]
    rfl

end State.AtLead

/-- A session of `LENGTH` mode at its first lead position. -/
def lengthOpened (ml : Memory) : State := { session .length ml [] with sync := .inFrame }

theorem lengthOpened_atLead (ml : Memory) : (lengthOpened ml).AtLead := ⟨rfl, rfl, rfl, rfl, rfl, rfl⟩

/-- R93: the first `START` of a session opens it, and would fill if it were open: its first frame reads as any other. -/
theorem State.Reads.length_opens {ml : Memory} {bs : List Byte} {es : List (Nat × Output)} {t : State}
    (h : (lengthOpened ml).Reads bs es t) : (Machine.session .length ml []).Reads (0x55#8 :: bs) (delayed 1 es) t :=
  .cons_silent (.openLength rfl rfl rfl) rfl h

/-- R148: a session that is frames of the expected lengths and nothing else. -/
theorem State.Reads.length_frames {ml : Memory} {fs : List Frame}
    (hlen : ∀ f ∈ fs, expectedLen ml f.address = some f.payload.length) :
    ∃ es t, (Machine.session .length ml []).Reads (fs.flatMap encodeFrame) es t ∧
      es.map Prod.snd = fs.map fun f => .cmd (commandOf f) := by
  have hlead := lengthOpened_atLead ml
  cases fs with
  | nil => exact ⟨[], _, .refl _, rfl⟩
  | cons f fs =>
    obtain ⟨es, hread, hes⟩ := hlead.reads_frames fun g hg => hlen g (List.mem_cons_of_mem _ hg)
    refine ⟨_, _, ((hlead.reads_body (hlen f List.mem_cons_self)).append hread).length_opens, ?_⟩
    rw [map_snd_delayed, List.map_append, map_snd_delayed, hes]
    rfl

/-- Garbage, a `START`, and what the lead position reads. -/
theorem State.Reads.length_session {ml : Memory} {g bs : List Byte} {es : List (Nat × Output)} {t : State}
    (h55 : 0x55#8 ∉ g) (h : (lengthOpened ml).Reads bs es t) :
    ∃ o, (Machine.session .length ml (g ++ 0x55#8 :: bs)).endsIn
      (t.onStream o [] (g ++ 0x55#8 :: bs).length (delayed (g.length + 1) es)) := by
  have hgarbage : (Machine.session .length ml []).Reads g [] (Machine.session .length ml []) := .garbage rfl h55
  have hread := hgarbage.append h.length_opens
  rw [List.nil_append, delayed_delayed] at hread
  exact hread.session

/-- Settles O54: after the garbage and its `START`, the first body and the second frame. -/
theorem lengthResynchronisesAfterGarbage : Obligations.LengthResynchronisesAfterGarbage := by
  unfold Obligations.LengthResynchronisesAfterGarbage
  intro ml g f1 f2 h55 hlen1 hlen2
  have hlead := lengthOpened_atLead ml
  obtain ⟨o, hends⟩ := State.Reads.length_session h55 ((hlead.reads_body hlen1).append (hlead.reads_frame hlen2))
  have hstream : g ++ encodeFrame f1 ++ encodeFrame f2 = g ++ 0x55#8 :: (frameBody f1 ++ encodeFrame f2) := by
    simp [encodeFrame_eq]
  refine ⟨_, hstream ▸ hends, ?_⟩
  have hpos1 := length_frameBody_pos f1
  have hpos2 := length_frameBody_pos f2
  show delayed _ _ = _
  simp only [length_encodeFrame, List.singleton_append, delayed_cons, delayed_nil]
  rw [show g.length + 1 + ((frameBody f1).length - 1) = g.length + ((frameBody f1).length + 1) - 1 by omega,
    show g.length + 1 + ((frameBody f1).length + ((frameBody f2).length + 1 - 1)) =
      g.length + ((frameBody f1).length + 1) + ((frameBody f2).length + 1) - 1 by omega]

/-- Settles O55: the run is read as the batch procedure says, which leaves the decoder seeking; the `START` of the frame
after it opens. -/
theorem startInsideRunIsReportedAndRecovered : Obligations.StartInsideRunIsReportedAndRecovered := by
  unfold Obligations.StartInsideRunIsReportedAndRecovered
  intro ml a e run f hlen hrun h55 hlenf
  obtain ⟨hlead, hstart⟩ := (lengthOpened_atLead ml).reads_runStart hlen
  have hbatch : Reference.batch ml a run = .done (.err .unexpectedSync (some a)) .seekingStart run [] := by
    simp only [Reference.batch, show expectedLen ml a = some (e + 1) from hlen, hrun, Wire.start, h55, if_true]
  have hsync := hstart.reads_done hbatch
  have hframe := ((lengthOpened_atLead ml).reads_body hlenf).length_opens
  have hafter := hframe.emit (.err .unexpectedSync (some a))
  obtain ⟨o, hends⟩ := State.Reads.length_session (g := []) List.not_mem_nil (hlead.append (hsync.append hafter))
  have hstream : encodeFrame ⟨a, []⟩ ++ run ++ encodeFrame f =
      [] ++ 0x55#8 :: (escByte a ++ (run ++ 0x55#8 :: frameBody f)) := by
    simp [encodeFrame_eq, frameBody]
  refine ⟨_, hstream ▸ hends, ?_⟩
  have hposf := length_frameBody_pos f
  have hposr : 1 ≤ run.length := List.length_pos_of_mem h55
  have hpos : (frameBody ⟨a, []⟩).length = (escByte a).length := by simp [frameBody]
  show delayed _ _ = _
  simp only [length_encodeFrame, hpos, observation, List.nil_append, List.singleton_append, delayed_cons, delayed_nil,
    List.length_nil]
  rw [show 0 + 1 + ((escByte a).length + (run.length - 1)) = (escByte a).length + 1 + run.length - 1 by omega,
    show 0 + 1 + ((escByte a).length + (run.length + (1 + ((frameBody f).length - 1)))) =
      (escByte a).length + 1 + run.length + ((frameBody f).length + 1) - 1 by omega]

/-- Settles O51: the command's frame has the expected length, and its command is the one sent. -/
theorem oneCommandRoundTrips : Obligations.OneCommandRoundTrips := by
  unfold Obligations.OneCommandRoundTrips
  intro ml c hrep
  obtain ⟨hlen, hcommand⟩ := commandOf_frameOf hrep
  have hdispatch : dispatch ml (frameOf c) = .cmd c := representableCommandDispatchesBack ml c hrep
  have hpos := length_frameBody_pos (frameOf c)
  have hencode : encodeCommand c = 0x55#8 :: frameBody (frameOf c) := rfl
  refine ⟨?length, ?closed, ?unclosed⟩
  case length =>
    have hread := ((lengthOpened_atLead ml).reads_body hlen).length_opens
    rw [hcommand, delayed_cons, delayed_nil, Nat.add_sub_cancel' hpos] at hread
    obtain ⟨o, hends⟩ := hread.session
    exact ⟨_, hends, rfl, rfl, rfl, rfl, rfl, rfl⟩
  case closed =>
    have hframe : (delimOpened ml).Reads _ _ _ := .delim_frame rfl rfl rfl (frameOf c)
    obtain ⟨o, hends⟩ := State.Reads.delim_session (g := []) List.not_mem_nil hframe
    refine ⟨_, hends, ?_⟩
    show delayed _ _ = _
    rw [show dispatch (delimOpened ml).ml (frameOf c) = .cmd c from hdispatch, delayed_cons, delayed_nil, hencode,
      List.length_cons, List.length_nil, Nat.zero_add, Nat.add_comm]
  case unclosed =>
    have hbody : (delimOpened ml).Reads (frameBody (frameOf c)) [] _ := .delim_escBytes rfl rfl _ rfl
    obtain ⟨o, hends⟩ := State.Reads.delim_session (g := []) List.not_mem_nil hbody
    exact ⟨_, hends, rfl⟩

/-- Settles O52, in each mode frame by frame. -/
theorem commandStreamRoundTrips : Obligations.CommandStreamRoundTrips := by
  unfold Obligations.CommandStreamRoundTrips
  intro ml cs hrep
  have hstream : cs.flatMap encodeCommand = (cs.map frameOf).flatMap encodeFrame := by
    rw [List.flatMap_map]; rfl
  constructor
  · have hlen : ∀ f ∈ cs.map frameOf, expectedLen ml f.address = some f.payload.length := by
      intro f hf
      obtain ⟨c, hc, rfl⟩ := List.mem_map.mp hf
      exact (commandOf_frameOf (hrep c hc)).1
    obtain ⟨es, t, hread, hes⟩ := State.Reads.length_frames hlen
    obtain ⟨o, hends⟩ := hread.session
    refine ⟨_, hstream ▸ hends, ?_⟩
    show es.map Prod.snd = _
    rw [hes, List.map_map]
    exact List.map_congr_left fun c hc => congrArg Output.cmd (commandOf_frameOf (hrep c hc)).2
  · obtain ⟨es, hread, hes⟩ := State.Reads.delim_frames (s := delimOpened ml) rfl rfl rfl (cs.map frameOf)
    obtain ⟨o, hends⟩ := State.Reads.delim_session (g := []) List.not_mem_nil hread
    rw [hstream, flatMap_encodeFrame_append]
    refine ⟨_, hends, ?_⟩
    show (delayed _ _).map Prod.snd = _
    rw [map_snd_delayed, hes, List.map_map]
    exact List.map_congr_left fun c hc => representableCommandDispatchesBack ml c (hrep c hc)

end Sys2Proof.Machine
end

section
/-! PROOFS. The finite realisation of the buffer (20_memory.md R37): what is kept of a buffer decides every output,
because a buffer that overflows is longer than every legal frame. -/

namespace Sys2Proof.Machine

theorem keepCells_of_le {cap : Nat} {x : List Byte} (h : x.length ≤ cap) : keepCells cap x = x := if_pos h

theorem keepCells_of_lt {cap : Nat} {x : List Byte} (h : cap < x.length) : keepCells cap x = x.take cap ++ [0#8] :=
  if_neg (Nat.not_le_of_lt h)

@[simp] theorem keepCells_nil (cap : Nat) : keepCells cap [] = [] := keepCells_of_le (Nat.zero_le _)

/-- The count is at most one above the capacity. -/
theorem length_keepCells (cap : Nat) (x : List Byte) : (keepCells cap x).length = min x.length (cap + 1) := by
  obtain h | h := le_or_gt x.length cap
  · rw [keepCells_of_le h]
    omega
  · rw [keepCells_of_lt h, List.length_append, List.length_take, List.length_singleton]
    omega

/-- The first cell keeps the lead byte, the others keep the payload. -/
theorem keepCells_cons (c : Nat) (a : Byte) (p : List Byte) : keepCells (c + 1) (a :: p) = a :: keepCells c p := by
  obtain h | h := le_or_gt p.length c
  · rw [keepCells_of_le h, keepCells_of_le (Nat.succ_le_succ h)]
  · rw [keepCells_of_lt h, keepCells_of_lt (Nat.succ_lt_succ h), List.take_succ_cons, List.cons_append]

/-- Bytes that come after what was kept are kept as if everything had been. -/
theorem keepCells_append (cap : Nat) (x y : List Byte) :
    keepCells cap (keepCells cap x ++ y) = keepCells cap (x ++ y) := by
  obtain h | h := le_or_gt x.length cap
  · rw [keepCells_of_le h]
  · have hx : cap < (x ++ y).length := by
      rw [List.length_append]
      omega
    have hkept : cap < (keepCells cap x ++ y).length := by
      rw [List.length_append, length_keepCells]
      omega
    have htake : (x.take cap).length = cap := List.length_take_of_le h.le
    rw [keepCells_of_lt hx, keepCells_of_lt hkept, keepCells_of_lt h, List.append_assoc,
      List.take_append_of_le_length htake.ge, List.take_append_of_le_length h.le, List.take_take, Nat.min_self]

theorem keepCells_keepCells (cap : Nat) (x : List Byte) : keepCells cap (keepCells cap x) = keepCells cap x := by
  simpa using keepCells_append cap x []

/-- R37, R128: a payload that overflows is longer than its expected length, kept or not. -/
theorem dispatch_keepCells {ml : Memory} {a : Byte} {c : Nat} (hbound : ∀ n, expectedLen ml a = some n → n ≤ c)
    (p : List Byte) : dispatch ml ⟨a, keepCells c p⟩ = dispatch ml ⟨a, p⟩ := by
  obtain h | h := le_or_gt p.length c
  · rw [keepCells_of_le h]
  · unfold dispatch
    cases hlen : expectedLen ml a with
    | none => rw [checkedOutput_of_unknown _ _ hlen, checkedOutput_of_unknown _ _ hlen]
    | some n =>
      have hn : n ≤ c := hbound n hlen
      have hkept : (keepCells c p).length ≠ n := by
        rw [length_keepCells]
        omega
      have hlong : p.length ≠ n := by omega
      rw [checkedOutput_of_known _ _ hlen, checkedOutput_of_known _ _ hlen, if_neg hkept, if_neg hlong]

theorem dispatch_congr_keepCells {ml : Memory} {a : Byte} {c : Nat} {p q : List Byte}
    (hbound : ∀ n, expectedLen ml a = some n → n ≤ c) (h : keepCells c p = keepCells c q) :
    dispatch ml ⟨a, p⟩ = dispatch ml ⟨a, q⟩ := by
  rw [← dispatch_keepCells hbound p, h, dispatch_keepCells hbound q]

/-- The state of the realisation that stands for `s`. -/
def State.kept (cap : Nat) (s : State) : State := { s with buf := keepCells cap s.buf }

theorem State.kept_of_nil {s : State} (cap : Nat) (h : s.buf = []) : s.kept cap = s := by
  rw [State.kept, h, keepCells_nil, ← h]

theorem State.kept_congr {s t : State} {cap : Nat} (h : s = { t with buf := s.buf })
    (hbuf : keepCells cap s.buf = keepCells cap t.buf) : s.kept cap = t.kept cap := by
  rw [State.kept, hbuf, h]
  rfl

/-- R105: how a run goes on or ends depends on what is kept of its buffer only. -/
theorem State.completeIfDone_kept {r r' : State} {a : Byte} {q q' : List Byte} {c : Nat} (hbuf : r.buf = a :: q)
    (hr : r' = { r with buf := a :: q' }) (hbound : ∀ n, expectedLen r.ml a = some n → n ≤ c)
    (hq : keepCells c q' = keepCells c q) : r'.completeIfDone.kept (c + 1) = r.completeIfDone.kept (c + 1) := by
  subst hr
  obtain ⟨sync, buf, rem, seen, bad, mode, ml, _⟩ := r
  obtain rfl : buf = a :: q := hbuf
  cases rem with
  | succ n =>
    refine State.kept_congr rfl ?_
    exact (keepCells_cons c a q').trans ((congrArg (a :: ·) hq).trans (keepCells_cons c a q).symm)
  | zero =>
    cases seen with
    | true => rfl
    | false =>
      cases bad with
      | true => rfl
      | false =>
        have hdispatch : dispatch ml ⟨a, q'⟩ = dispatch ml ⟨a, q⟩ := dispatch_congr_keepCells hbound hq
        rw [State.completeIfDone_of_clean rfl rfl rfl rfl, State.completeIfDone_of_clean rfl rfl rfl rfl, hdispatch]

/-- R37: the realisation takes an event as the machine does, up to what it keeps. -/
theorem State.Takes.kept {s t : State} {ev : InputEvent} {c : Nat} (h : s.Takes ev t)
    (hbound : ∀ a n, expectedLen s.ml a = some n → n ≤ c) :
    ∃ u, (s.kept (c + 1)).Takes ev u ∧ u.kept (c + 1) = t.kept (c + 1) := by
  have hkept {a : Byte} {p : List Byte} (hbuf : s.buf = a :: p) : (s.kept (c + 1)).buf = a :: keepCells c p := by
    rw [State.kept, hbuf, keepCells_cons]
  have hnil (hbuf : s.buf = []) : ∃ u, (s.kept (c + 1)).Takes ev u ∧ u.kept (c + 1) = t.kept (c + 1) :=
    ⟨t, by rw [s.kept_of_nil _ hbuf]; exact h, rfl⟩
  cases h with
  | eos => exact ⟨_, .eos, rfl⟩
  | discard hsync h55 => exact ⟨_, .discard hsync h55, State.kept_congr rfl (keepCells_keepCells _ _)⟩
  | openDelim hmode hsync hb => exact ⟨_, .openDelim hmode hsync hb, rfl⟩
  | openLength hmode hsync hb => exact ⟨_, .openLength hmode hsync hb, rfl⟩
  | escape hsync hb => exact ⟨_, .escape hsync hb, State.kept_congr rfl (keepCells_keepCells _ _)⟩
  | fill _ hbuf | lead _ _ hbuf | leadCode _ _ hbuf => exact hnil hbuf
  | @close b a p hmode hsync hbuf hb =>
    exact ⟨_, .close hmode hsync (hkept hbuf) hb,
      congrArg (fun o => ({ s with buf := [], out := o } : State).kept (c + 1)) (dispatch_keepCells (hbound a) p)⟩
  | append hmode hsync h54 h55 =>
    exact ⟨_, .append hmode hsync h54 h55, State.kept_congr rfl (keepCells_append _ _ _)⟩
  | appendCode hmode hsync hcode =>
    exact ⟨_, .appendCode hmode hsync hcode, State.kept_congr rfl (keepCells_append _ _ _)⟩
  | badEscape hplace hsync hcode =>
    have hplace' : s.mode = .delim ∨ (s.kept (c + 1)).buf = [] :=
      hplace.imp_right fun hbuf => by rw [s.kept_of_nil _ hbuf, hbuf]
    have hlead : (s.kept (c + 1)).buf.head? = s.buf.head? := by
      cases hbuf : s.buf with
      | nil => rw [s.kept_of_nil _ hbuf, hbuf]
      | cons a p => rw [hkept hbuf, List.head?_cons, List.head?_cons]
    refine ⟨_, .badEscape hplace' hsync hcode, ?_⟩
    rw [hlead]
    rfl
  | @runByte b a p hmode hsync hbuf h54 =>
    refine ⟨_, .runByte hmode hsync (hkept hbuf) h54, ?_⟩
    apply State.completeIfDone_kept
    exacts [rfl, rfl, hbound a, keepCells_append c p [b]]
  | @runCode b a p hmode hsync hbuf =>
    refine ⟨_, .runCode hmode hsync (hkept hbuf), ?_⟩
    apply State.completeIfDone_kept
    exacts [rfl, rfl, hbound a, keepCells_append c p (literalOf b)]

/-- One step of the realisation simulates one step of the machine. -/
theorem finiteStep_kept {s t : State} {c : Nat} (hbound : ∀ a n, expectedLen s.ml a = some n → n ≤ c)
    (h : step s = .next t) : finiteStep (c + 1) (s.kept (c + 1)) = .next (t.kept (c + 1)) := by
  obtain ⟨hinput, rfl⟩ | ⟨ev, rest, v, hinput, htakes, rfl⟩ := step_takes h
  · have hstep : step (s.kept (c + 1)) = .next (s.kept (c + 1)).idle := step_eq_idle hinput
    rw [finiteStep, hstep]
    exact congrArg Host.Outcome.next (State.kept_congr rfl (keepCells_keepCells _ _))
  · obtain ⟨u, hu, huv⟩ := htakes.kept hbound
    rw [finiteStep, hu.step_eq hinput]
    exact congrArg (fun w : State => Host.Outcome.next (w.retire rest)) huv

/-- R37: the realisation simulates any number of steps. -/
theorem finiteRun_kept {s t : State} {c k : Nat} (hbound : ∀ a n, expectedLen s.ml a = some n → n ≤ c)
    (h : s.runsTo k t) : finiteRun (c + 1) k (s.kept (c + 1)) = .next (t.kept (c + 1)) := by
  induction k generalizing s with
  | zero =>
    cases Host.Outcome.next.inj h
    rfl
  | succ k ih =>
    obtain ⟨u, hstep, hrest⟩ := State.runsTo_succ.mp h
    have hml : u.ml = s.ml := (stepKeepsConfiguration s u hstep).2
    rw [finiteRun, finiteStep_kept hbound hstep]
    exact ih (hml ▸ hbound) hrest

/-- Settles O50: the state of the realisation is what it keeps of the machine's; from an empty buffer the two begin
alike. -/
theorem finiteBufferGivesTheSameOutputs : Obligations.FiniteBufferGivesTheSameOutputs := by
  unfold Obligations.FiniteBufferGivesTheSameOutputs
  intro s t cap l k _ hbuf hml hcap hrun
  obtain ⟨c, rfl⟩ : ∃ c, cap = c + 1 := ⟨cap - 1, by omega⟩
  have hbound (a : Byte) (n : Nat) (hlen : expectedLen s.ml a = some n) : n ≤ c := by
    have hn := expectedLen_le_of_boundedBy hml hlen
    omega
  have hfinite := finiteRun_kept hbound hrun
  rw [s.kept_of_nil (c + 1) hbuf] at hfinite
  refine ⟨_, hfinite, rfl, rfl, rfl, ?_⟩
  show (keepCells (c + 1) t.buf).length ≤ c + 1 + 1
  rw [length_keepCells]
  exact Nat.min_le_right _ _

end Sys2Proof.Machine
end
